-- ==== Sys2Proof/Word.lean ====
section
/-! DEFINITION. The two word types of the block (00_scope.md R8): a byte and a 16-bit word, both unsigned,
bit 0 the least significant. -/

namespace Sys2Proof

/-- A byte `b[7:0]` (R8). -/
abbrev Byte := BitVec 8

/-- A word `w[15:0]` (R8, `WORD_BITS` = 16 of R6). -/
abbrev Word := BitVec 16

end Sys2Proof
end

