-- ==== Sys2Proof/Config.lean ====
section
/-! DEFINITION. The implementation parameters of 00_scope.md R6 and R7, under the spec's names. They are
constants of this hardware, not state (10_state.md R20). The source's literals are unaudited
(91_not_in_source.md N12): log entry 5. -/

namespace Sys2Proof.Config

/-- `MARKER`: value of each of the two start-marker bytes. -/
abbrev marker : Byte := 0xFF

/-- `MARKER_LEN`: marker bytes per frame. -/
abbrev markerLen : Nat := 2

/-- `NWORDS`: words per frame. -/
abbrev nwords : Nat := 8

/-- `WORD_BITS`: width of a word. -/
abbrev wordBits : Nat := 16

/-- `PAYLOAD_LEN`: payload bytes per frame, two for each word. -/
abbrev payloadLen : Nat := 2 * nwords

/-- `FRAME_LEN`: wire length of a frame. -/
abbrev frameLen : Nat := markerLen + payloadLen

/-- `CAP`: Carry Buffer capacity in bytes. -/
abbrev cap : Nat := 18

/-- `RESYNC_ON_LOW` (R7): `false` for this hardware. Definitions that depend on it take it as an argument, so
that a claim can be stated for the variant too. -/
abbrev resyncOnLow : Bool := false

end Sys2Proof.Config
end

