-- ==== Sys2Proof/Syntax.lean ====
section
/-! DEFINITION. The instructions of the block: the two session operations and the ten transitions of the Frame
Decoder, one constructor per row of opcode_table.json (00_scope.md R2); the phases they are selected by, and the
host's request container. -/

namespace Sys2Proof

/-- The five phases (10_state.md R21). The reserved codes `101` to `111` are unrepresentable, as 30_encoding.md
R74 asks. -/
inductive Phase where
  /-- `AWAIT_MARKER_1` -/
  | AM1
  /-- `AWAIT_MARKER_2` -/
  | AM2
  /-- `WORD_HIGH_BYTE`, of the first word after the marker -/
  | WH
  /-- `WORD_LOW_BYTE` -/
  | WL
  /-- `NEXT_WORD_HIGH_BYTE`, of words 2 to 8 -/
  | NWH
  deriving DecidableEq, Repr

/-- Eight words, word 0 first: a frame (00_scope.md R10). -/
abbrev Frame := Vector Word Config.nwords

/-- A request to the block (30_encoding.md R75): `op` 0 is `INIT`, 1 is `FEED`; `data` is used by `FEED` only. -/
structure Request where
  op : BitVec 1
  data : List Byte
  deriving DecidableEq, Repr

/-- One constructor per row of opcode_table.json. The operands of a transition, the byte `b` and its index `i`,
are supplied by the scan in progress (40_session.md R106), so a transition carries none. -/
inductive Instr where
  /-- `INIT`: start a Decode Session (R101). -/
  | init
  /-- `FEED`: append bytes and attempt one decode (R102). -/
  | feed (data : List Byte)
  /-- `AM1_OTHER`, selector `0000` (R132). -/
  | am1Other
  /-- `AM1_MARK`, selector `0001` (R131). -/
  | am1Mark
  /-- `AM2_OTHER`, selector `0010` (R134). -/
  | am2Other
  /-- `AM2_MARK`, selector `0011` (R133). -/
  | am2Mark
  /-- `WH_DATA`, selector `0100` (R136). -/
  | whData
  /-- `WH_MARK`, selector `0101` (R135). -/
  | whMark
  /-- `WL_DATA`, selector `0110` (R137). -/
  | wlData
  /-- `WL_FF`, selector `0111` (R138). -/
  | wlFf
  /-- `NWH_DATA`, selector `1000` (R140). -/
  | nwhData
  /-- `NWH_MARK`, selector `1001` (R139). -/
  | nwhMark
  deriving DecidableEq, Repr

end Sys2Proof
end

