-- ==== Sys2Proof/WellFormed.lean ====
section
/-! DEFINITION. Which instructions and requests have an encoding in the listing form of 30_encoding.md R76.
A `FEED` of 256 bytes or more has none, though it is a request (R75, R76) and runs. -/

namespace Sys2Proof

/-- The instruction has an encoding: a transition its selector (R80), a `FEED` of at most 255 bytes its listing
form (R76). -/
def Instr.wf : Instr → Bool
  | .init => true
  | .feed data => decide (data.length < 256)
  | .am1Other => true
  | .am1Mark => true
  | .am2Other => true
  | .am2Mark => true
  | .whData => true
  | .whMark => true
  | .wlData => true
  | .wlFf => true
  | .nwhData => true
  | .nwhMark => true

/-- The request has a listing form: the data of an `INIT` "must be empty in the listing form" (R75), and a `FEED`
carries at most 255 bytes (R76). -/
def Request.wf (r : Request) : Bool :=
  if r.op = 0 then r.data.isEmpty else decide (r.data.length < 256)

end Sys2Proof
end

