-- ==== Sys2Proof/Decode.lean ====
section
/-! DEFINITION. The encodings of 30_encoding.md: phase codes (R73), the marker class (R71), the transition
selector (R80), the request record (R75) and its listing form (R76); the decoders, total and rejecting by name,
and the encoders written from the same tables. -/

namespace Sys2Proof

/-! ### Phase codes, R73 -/

/-- The code `phase[2:0]` of a phase. -/
def Phase.code : Phase → BitVec 3
  | .AM1 => 0b000
  | .AM2 => 0b001
  | .WH => 0b010
  | .WL => 0b011
  | .NWH => 0b100

/-- The phase of a code; the codes `101` to `111` are reserved (R74). -/
def Phase.ofCode (c : BitVec 3) : Option Phase :=
  if c = 0b000 then some .AM1
  else if c = 0b001 then some .AM2
  else if c = 0b010 then some .WH
  else if c = 0b011 then some .WL
  else if c = 0b100 then some .NWH
  else none

/-! ### The transition selector, R71 and R80 -/

/-- The marker class `m(b)` (R71). -/
def isMarker (b : Byte) : Bool := b == Config.marker

/-- The selector word of a phase and a marker class, `{phase[2:0], m}`. -/
def selectorOf (p : Phase) (m : Bool) : BitVec 4 := p.code ++ BitVec.ofBool m

/-- `sel[3:0] = {phase[2:0], m(b)}` (R80). -/
def selector (p : Phase) (b : Byte) : BitVec 4 := selectorOf p (isMarker b)

/-- The transition a selector names (the table of R80); selectors `1010` to `1111` select nothing. -/
def decodeSelector (sel : BitVec 4) : Option Instr :=
  if sel = 0b0000 then some .am1Other
  else if sel = 0b0001 then some .am1Mark
  else if sel = 0b0010 then some .am2Other
  else if sel = 0b0011 then some .am2Mark
  else if sel = 0b0100 then some .whData
  else if sel = 0b0101 then some .whMark
  else if sel = 0b0110 then some .wlData
  else if sel = 0b0111 then some .wlFf
  else if sel = 0b1000 then some .nwhData
  else if sel = 0b1001 then some .nwhMark
  else none

/-! ### Request records, R75 -/

/-- The operation a request record asks for. `INIT` ignores `data`; one bit leaves no reserved code. -/
def Request.decode (r : Request) : Instr :=
  if r.op = 0 then .init else .feed r.data

/-- The request record of a session operation; a transition is never requested by the host. -/
def Instr.request : Instr → Option Request
  | .init => some ⟨0, []⟩
  | .feed data => some ⟨1, data⟩
  | .am1Other => none
  | .am1Mark => none
  | .am2Other => none
  | .am2Mark => none
  | .whData => none
  | .whMark => none
  | .wlData => none
  | .wlFf => none
  | .nwhData => none
  | .nwhMark => none

/-! ### The listing form, R76 -/

/-- Why an encoding is rejected. -/
inductive Reject where
  /-- There is no byte to read. -/
  | endOfListing
  /-- The first byte is neither `00` nor `01` (R76, R82). -/
  | badOperation (first : Byte)
  /-- A `FEED` without its length byte. -/
  | missingLength
  /-- A `FEED` with fewer data bytes than its length byte says. -/
  | missingData
  /-- Bytes are left after the one request. -/
  | trailingBytes
  /-- A selector of R80 that selects nothing. -/
  | reservedSelector (sel : BitVec 4)
  deriving DecidableEq, Repr

/-- One request from the front of a listing, and the bytes after it. -/
def decodeListing : List Byte → Except Reject (Request × List Byte)
  | [] => .error .endOfListing
  | first :: rest =>
    if first = 0x00 then .ok (⟨0, []⟩, rest)
    else if first = 0x01 then
      match rest with
      | [] => .error .missingLength
      | n :: tail =>
        if n.toNat ≤ tail.length then .ok (⟨1, tail.take n.toNat⟩, tail.drop n.toNat)
        else .error .missingData
    else .error (.badOperation first)

/-- The requests of a whole listing, at most `fuel` of them. -/
def decodeProgramFuel : Nat → List Byte → Except Reject (List Request)
  | _, [] => .ok []
  | 0, _ :: _ => .error .trailingBytes
  | fuel + 1, first :: rest =>
    match decodeListing (first :: rest) with
    | .error e => .error e
    | .ok (r, left) =>
      match decodeProgramFuel fuel left with
      | .error e => .error e
      | .ok rs => .ok (r :: rs)

/-- The requests of a whole listing (the programs of 95_test_vectors.md); every request takes at least one byte. -/
def decodeProgram (listing : List Byte) : Except Reject (List Request) :=
  decodeProgramFuel listing.length listing

/-- The listing form of a request (R76). -/
def Request.listing (r : Request) : List Byte :=
  if r.op = 0 then [0x00] else 0x01 :: BitVec.ofNat 8 r.data.length :: r.data

/-- The listing form of a sequence of requests. -/
def encodeProgram (rs : List Request) : List Byte := rs.flatMap Request.listing

/-! ### One instruction -/

/-- An encoded instruction: a request in listing form, or a selector. The two are different spaces, and the table
gives each row in its own. -/
inductive Code where
  | listing (bytes : List Byte)
  | selector (sel : BitVec 4)
  deriving DecidableEq, Repr

/-- The instruction an encoding stands for. -/
def decode : Code → Except Reject Instr
  | .listing bytes =>
    match decodeListing bytes with
    | .error e => .error e
    | .ok (r, []) => .ok r.decode
    | .ok (_, _ :: _) => .error .trailingBytes
  | .selector sel =>
    match decodeSelector sel with
    | none => .error (.reservedSelector sel)
    | some i => .ok i

/-- The encoding of a well-formed instruction. -/
def encode : Instr → Code
  | .init => .listing [0x00]
  | .feed data => .listing (0x01 :: BitVec.ofNat 8 data.length :: data)
  | .am1Other => .selector 0b0000
  | .am1Mark => .selector 0b0001
  | .am2Other => .selector 0b0010
  | .am2Mark => .selector 0b0011
  | .whData => .selector 0b0100
  | .whMark => .selector 0b0101
  | .wlData => .selector 0b0110
  | .wlFf => .selector 0b0111
  | .nwhData => .selector 0b1000
  | .nwhMark => .selector 0b1001

/-! ### The opcode table's words -/

/-- The bytes of a table word: the lowest 8 bits first, then zeros above its `nbits` bits, as many as a length byte of
zero and the data of the largest length byte in the word can ask for. -/
def tableBytes (nbits w : Nat) : List Byte :=
  (List.range (max 1 (nbits / 8))).map (fun j => BitVec.ofNat 8 (w / 256 ^ j)) ++
    List.replicate (w / 256 % 256 + 1) 0x00

/-- The instruction read from a word of opcode_table.json. A word of four bits is a selector. Any other is read as
a request listing and, where the listing decoder refuses its first byte, as a selector. The words 0 and 1 name a row
in both formats of the table: at eight bits they are read as `INIT` and `FEED` (log entry 6). -/
def decodeTableWord (nbits w : Nat) : Option Instr :=
  if nbits = 4 then decodeSelector (BitVec.ofNat 4 w)
  else
    match decodeListing (tableBytes nbits w) with
    | .ok (r, _) => some r.decode
    | .error _ => if w < 16 then decodeSelector (BitVec.ofNat 4 w) else none

end Sys2Proof
end

