-- ==== Sys2Proof/Machine/State.lean ====
section
/-! DEFINITION. The state of one Decode Session (10_state.md R20), the record an operation returns (30_encoding.md
R77), the reasons a step can stop, and the state after reset (10_state.md R32). All of it is plain data. -/

namespace Sys2Proof.Machine

/-- The status of a result (30_encoding.md R77). The code `11` is reserved (R79) and unrepresentable. -/
inductive Status where
  /-- `00` `NO_FRAME`: no frame yet; also returned by `INIT` -/
  | noFrame
  /-- `01` `FRAME`: one frame completed -/
  | frame
  /-- `10` `CAPACITY_EXCEEDED` -/
  | capacityExceeded
  deriving DecidableEq, Repr

/-- The frame of eight zero words, the frame field of a result that carries no frame (R77). -/
abbrev zeroFrame : Frame := Vector.replicate Config.nwords 0x0000

/-- The record `{status, frame, room}` an operation returns (R77). -/
structure Result where
  status : Status
  frame : Frame
  room : BitVec 5
  deriving DecidableEq, Repr

/-- The working values of one `FEED`: the loop index `i` (40_session.md R105), the discard marker `disc` (R107) and
the pending result `res`, `none` for `NO_FRAME` (10_state.md R29). None survives the operation. -/
structure Scan where
  i : Nat
  disc : Nat
  res : Option Frame
  deriving DecidableEq, Repr

/-- What the session is doing (log entry 2). -/
inductive Activity where
  /-- Never started: neither `INIT` nor a power-on reset has happened (70_reset_and_hazards.md R202). -/
  | uninitialised
  /-- Between two operations. -/
  | idle
  /-- Inside a `FEED`, with its working values. -/
  | scanning (w : Scan)
  deriving DecidableEq, Repr

/-- The state. The first six fields are the tuple of 10_state.md R20; the last three are the model's own. -/
structure State where
  /-- the phase register (R21) -/
  phase : Phase
  /-- completed words of the frame being assembled (R22) -/
  count : BitVec 3
  /-- the scratch high byte (R23) -/
  hi : Byte
  /-- the frame assembly register (R24) -/
  words : Vector Word Config.nwords
  /-- the Carry Buffer, oldest byte first (R25) -/
  buf : List Byte
  /-- how many bytes at the front of `buf` have been examined (R26) -/
  scan : BitVec 5
  /-- what the session is doing (log entry 2) -/
  act : Activity
  /-- what the last operation returned (R77; log entry 4) -/
  result : Result
  /-- the requests the host has still to issue (R75; log entry 3) -/
  requests : List Request
  deriving DecidableEq, Repr

/-- Reasons to stop with a fault. There are none: "No condition inside the Frame Decoder itself is fatal"
(41_frame_decoder.md R145), and the block has no trap mechanism (60_exceptions.md R175); log entry 10. -/
inductive Fault where
  deriving DecidableEq, Repr

/-- Reasons to give an instruction no meaning. Every one is safe: the machine stops where the spec gives nothing. -/
inductive Refusal where
  /-- An instruction that has no meaning in this model yet, raised by `exec` alone. Safe. -/
  | notModelled (mnemonic : String)
  /-- A `FEED` to a session that was never initialised, raised by `execFeed` (70_reset_and_hazards.md R202). Safe. -/
  | uninitialised
  /-- An operation while another is in progress, raised by `execInit` and `execFeed` (R206). Safe. -/
  | overlappingOperation
  /-- A transition while no scan is in progress, raised by the ten transitions (40_session.md R105, R106). Safe. -/
  | notScanning
  /-- A transition when the scan has no byte to examine, raised by the ten transitions (R105). Safe. -/
  | noByteToExamine
  /-- A transition that the selector does not select, raised by the ten transitions (R106; log entry 8). Safe. -/
  | notSelected
  /-- A selector that selects nothing, raised by `step` (30_encoding.md R74, R80). Safe. -/
  | reservedSelector
  /-- A result with the reserved status code, raised by the host loop (R79). Safe. -/
  | reservedStatus
  /-- An operation on a session that does not exist, raised by `sessionsExec` (60_exceptions.md R184). Safe. -/
  | noSuchSession
  deriving DecidableEq, Repr

/-- The state right after reset (10_state.md R32; 70_reset_and_hazards.md R200, R201). -/
def State.reset : State where
  phase := .AM1
  count := 0
  hi := 0x00
  words := Vector.replicate Config.nwords 0x0000
  buf := []
  scan := 0
  act := .idle
  result := ⟨.noFrame, zeroFrame, 18⟩
  requests := []

end Sys2Proof.Machine
end

