-- ==== Sys2Proof/Machine/Ops.lean ====
section
/-! DEFINITION. The named operations every meaning is made of: one update per field of State, the buffer primitives
of 20_memory.md section 2, the room value and the result record (30_encoding.md R77), the ONE operation that reports
the block's only error (60_exceptions.md R171; there is no trap to take, R175), reset, and the fetch of the next
request or transition. -/

namespace Sys2Proof.Machine

/-! ### One update per field -/

def State.setPhase (s : State) (p : Phase) : State := { s with phase := p }
def State.setCount (s : State) (c : BitVec 3) : State := { s with count := c }
def State.setHi (s : State) (b : Byte) : State := { s with hi := b }
def State.setWords (s : State) (ws : Vector Word Config.nwords) : State := { s with words := ws }
def State.setBuf (s : State) (bytes : List Byte) : State := { s with buf := bytes }
def State.setScan (s : State) (k : BitVec 5) : State := { s with scan := k }
def State.setAct (s : State) (a : Activity) : State := { s with act := a }
def State.setResult (s : State) (r : Result) : State := { s with result := r }
def State.setRequests (s : State) (rs : List Request) : State := { s with requests := rs }

/-! ### Buffer primitives -/

/-- `BufAppend(data)` (R51). -/
def State.bufAppend (s : State) (data : List Byte) : State := s.setBuf (s.buf ++ data)

/-- `BufAt(i)` (R52), defined for `i < |buf|`. -/
def State.bufAt (s : State) (i : Nat) : Option Byte := s.buf[i]?

/-- `BufDropPrefix(k)` (R53). -/
def State.bufDropPrefix (s : State) (k : Nat) : State := s.setBuf (s.buf.drop k)

/-! ### Results -/

/-- `CAP − |buf|`, the room field (R77). -/
def State.room (s : State) : BitVec 5 := BitVec.ofNat 5 (Config.cap - s.buf.length)

/-- `return {NO_FRAME, 0, CAP − |buf|}`. -/
def State.returnNoFrame (s : State) : State := s.setResult ⟨.noFrame, zeroFrame, s.room⟩

/-- `return {FRAME, w, CAP − |buf|}`. -/
def State.returnFrame (s : State) (w : Frame) : State := s.setResult ⟨.frame, w, s.room⟩

/-- The one error of the block, raised by `FEED` (60_exceptions.md R171): the result says `CAPACITY_EXCEEDED`, and
no state element changes (40_session.md R103). It does not latch (R177), so there is no return from it. -/
def State.returnCapacityExceeded (s : State) : State := s.setResult ⟨.capacityExceeded, zeroFrame, s.room⟩

/-- `return {res.status, res.frame, CAP − |buf|}` (40_session.md R109). -/
def State.returnPending (s : State) (res : Option Frame) : State :=
  match res with
  | none => s.returnNoFrame
  | some w => s.returnFrame w

/-! ### Reset -/

/-- The reset state of a session (10_state.md R32) with the result of `INIT` (70_reset_and_hazards.md R201). What
the host has still to issue is not the session's, and stays. -/
def State.startSession (s : State) : State := State.reset.setRequests s.requests

/-- Power-on reset of a hardware realisation: the effect of `INIT` (70_reset_and_hazards.md R200), in any state. -/
def State.powerOnReset (s : State) : State := s.startSession

/-! ### Fetch -/

/-- The byte the scan examines next: none when the buffer is exhausted or a frame is pending (40_session.md R105). -/
def State.examined (s : State) (w : Scan) : Option Byte :=
  match w.res with
  | none => s.bufAt w.i
  | some _ => none

/-- `i <- i + 1` of the scan loop (40_session.md R105). -/
def State.advanceIndex (s : State) : State :=
  match s.act with
  | .scanning w => s.setAct (.scanning { w with i := w.i + 1 })
  | .idle => s
  | .uninitialised => s

/-- The next request of the host, as an instruction, and the state with that request taken. -/
def State.takeRequest (s : State) : Option (Instr × State) :=
  match s.requests with
  | [] => none
  | r :: rs => some (r.decode, s.setRequests rs)

/-- The state with a session operation in front of all other requests. A scan in progress is left, so that the
request is the next thing to run. -/
def State.placeRequest (s : State) (r : Request) : State :=
  let s' := s.setRequests (r :: s.requests)
  match s.act with
  | .scanning _ => s'.setAct .idle
  | .idle => s'
  | .uninitialised => s'

/-- The state with a scan in progress whose next byte selects the transition of phase `p` and marker class `m`
(log entry 7). The byte stands at the end of the buffer, in its last place if the buffer is full. -/
def State.placeTransition (s : State) (p : Phase) (m : Bool) : State :=
  let kept := s.buf.take (Config.cap - 1)
  let b : Byte := if m then Config.marker else 0x00
  ((s.setPhase p).setBuf (kept ++ [b])).setAct (.scanning ⟨kept.length, 0, none⟩)

/-- The state in which the next step runs `i`. -/
def State.placeInstr (s : State) (i : Instr) : State :=
  match i with
  | .init => s.placeRequest ⟨0, []⟩
  | .feed data => s.placeRequest ⟨1, data⟩
  | .am1Other => s.placeTransition .AM1 false
  | .am1Mark => s.placeTransition .AM1 true
  | .am2Other => s.placeTransition .AM2 false
  | .am2Mark => s.placeTransition .AM2 true
  | .whData => s.placeTransition .WH false
  | .whMark => s.placeTransition .WH true
  | .wlData => s.placeTransition .WL false
  | .wlFf => s.placeTransition .WL true
  | .nwhData => s.placeTransition .NWH false
  | .nwhMark => s.placeTransition .NWH true

end Sys2Proof.Machine
end

