-- ==== Sys2Proof/Machine/Operands.lean ====
section
/-! DEFINITION. Operand forms: word assembly and its inverse (20_memory.md R55, 41_frame_decoder.md R141), the wire
format of a frame (30_encoding.md R70), its 128-bit form (R78), the result container (R77 to R79), and the selection
of a transition with its byte operand (40_session.md R106). -/

namespace Sys2Proof

/-- `w[15:8]`. -/
def Word.hiByte (w : Word) : Byte := w.extractLsb' 8 8

/-- `w[7:0]`. -/
def Word.loByte (w : Word) : Byte := w.extractLsb' 0 8

/-- `{hi, lo}`: the only value assembled from input bits (R141). -/
def Word.assemble (hi lo : Byte) : Word := hi ++ lo

/-- The payload bytes of some words, high byte first (R55). -/
def wordsToBytes (ws : List Word) : List Byte := ws.flatMap fun w => [Word.hiByte w, Word.loByte w]

/-- The 16 payload bytes of a frame. -/
def Frame.payload (f : Frame) : List Byte := wordsToBytes f.toList

/-- The 18 bytes of a frame on the wire (R70). -/
def Frame.wire (f : Frame) : List Byte := Config.marker :: Config.marker :: f.payload

/-- The frame as one 128-bit value, word 0 in bits 127 to 112 (R78). -/
def Frame.toBits (f : Frame) : BitVec 128 :=
  f[0] ++ f[1] ++ f[2] ++ f[3] ++ f[4] ++ f[5] ++ f[6] ++ f[7]

/-- Word `j` of the frame is `F[127−16j : 112−16j]` (R78). -/
def Frame.ofBits (F : BitVec 128) : Frame :=
  #v[F.extractLsb' 112 16, F.extractLsb' 96 16, F.extractLsb' 80 16, F.extractLsb' 64 16,
     F.extractLsb' 48 16, F.extractLsb' 32 16, F.extractLsb' 16 16, F.extractLsb' 0 16]

end Sys2Proof

namespace Sys2Proof.Machine

/-- The 2-bit code of a status (30_encoding.md R77). -/
def Status.code : Status → BitVec 2
  | .noFrame => 0b00
  | .frame => 0b01
  | .capacityExceeded => 0b10

/-- The status of a code; `11` is reserved (R79). -/
def Status.ofCode (c : BitVec 2) : Option Status :=
  if c = 0b00 then some .noFrame
  else if c = 0b01 then some .frame
  else if c = 0b10 then some .capacityExceeded
  else none

/-- A result as the bits the host receives (R77), the frame in its 128-bit form (R78). -/
structure ResultBits where
  status : BitVec 2
  frame : BitVec 128
  room : BitVec 5
  deriving DecidableEq, Repr

/-- The bits of a result. -/
def Result.toBits (r : Result) : ResultBits := ⟨r.status.code, Frame.toBits r.frame, r.room⟩

/-- The result of some bits; none for the reserved status (R79). -/
def Result.ofBits (b : ResultBits) : Option Result :=
  match Status.ofCode b.status with
  | none => none
  | some st => some ⟨st, Frame.ofBits b.frame, b.room⟩

/-- A transition with its operands (40_session.md R106): in a scan whose next byte `b` selects `{p, m}`, `body b` is
applied to the state; the body finds the index `i` in the scan. It never runs outside its selector (41_frame_decoder.md
R130; log entry 8). -/
def runTransition (p : Phase) (m : Bool) (body : Byte → State → State) (s : State) :
    Host.Outcome State Fault Refusal :=
  match s.act with
  | .scanning w =>
    match s.examined w with
    | some b => if selector s.phase b = selectorOf p m then .next (body b s) else .refused .notSelected
    | none => .refused .noByteToExamine
  | .idle => .refused .notScanning
  | .uninitialised => .refused .notScanning

end Sys2Proof.Machine
end

