-- ==== Sys2Proof/Machine/Flags.lean ====
section
/-! DEFINITION. The block has no flags (10_state.md R29). What stands in their place are the two working values of a
scan, the discard marker `disc` (40_session.md R107) and the pending result `res`: these are their only writers. -/

namespace Sys2Proof.Machine

/-- A change of the working values; outside a scan there are none. -/
def State.updateScan (s : State) (f : Scan → Scan) : State :=
  match s.act with
  | .scanning w => s.setAct (.scanning (f w))
  | .idle => s
  | .uninitialised => s

/-- `disc <- i + 1`: the byte at index `i` and all before it are discarded (R107). -/
def State.discardThrough (s : State) : State := s.updateScan fun w => { w with disc := w.i + 1 }

/-- `disc <- i`: all bytes before index `i` are discarded, the byte at `i` is kept (R107). -/
def State.discardBefore (s : State) : State := s.updateScan fun w => { w with disc := w.i }

/-- `res <- FRAME(words[0..7])` (41_frame_decoder.md R137). -/
def State.emit (s : State) : State := s.updateScan fun w => { w with res := some s.words }

end Sys2Proof.Machine
end

