-- ==== Sys2Proof/Machine/Transitions.lean ====
section
/-! DEFINITION. The ten transitions of the Frame Decoder (41_frame_decoder.md R131 to R140): the body of each rule,
the step dispatch of 40_session.md R106, and the meaning of each transition as an instruction. -/

namespace Sys2Proof.Machine

/-! ### The bodies, one per rule -/

/-- R131: `phase <- AM2`. -/
def am1MarkBody (_ : Byte) (s : State) : State := s.setPhase .AM2

/-- R132: `disc <- i + 1`. -/
def am1OtherBody (_ : Byte) (s : State) : State := s.discardThrough

/-- R133: `phase <- WH; count <- 0`. -/
def am2MarkBody (_ : Byte) (s : State) : State := (s.setPhase .WH).setCount 0

/-- R134: `disc <- i + 1; phase <- AM1`. -/
def am2OtherBody (_ : Byte) (s : State) : State := s.discardThrough.setPhase .AM1

/-- Resynchronization: `disc <- i; phase <- AM2`, the body R135, R139 and the variant of R138 share. -/
def resynchronize (s : State) : State := s.discardBefore.setPhase .AM2

/-- R135: `disc <- i; phase <- AM2`. -/
def whMarkBody (_ : Byte) (s : State) : State := resynchronize s

/-- R136: `hi <- b; phase <- WL`. -/
def whDataBody (b : Byte) (s : State) : State := (s.setHi b).setPhase .WL

/-- R139: `disc <- i; phase <- AM2`. -/
def nwhMarkBody (_ : Byte) (s : State) : State := resynchronize s

/-- R140: `hi <- b; phase <- WL`. -/
def nwhDataBody (b : Byte) (s : State) : State := (s.setHi b).setPhase .WL

/-- `words[count] <- {hi, b}` of R137. -/
def storeWord (b : Byte) (s : State) : State :=
  s.setWords (s.words.set s.count.toNat (Word.assemble s.hi b) s.count.isLt)

/-- R137: complete a word; the eighth completes the frame. The value `count + 1` is compared before it is stored
(10_state.md R22). -/
def wlDataBody (b : Byte) (s : State) : State :=
  if s.count.toNat + 1 = Config.nwords then
    (((storeWord b s).emit.discardThrough).setPhase .AM1).setCount 0
  else
    ((storeWord b s).setCount (s.count + 1)).setPhase .NWH

/-- R138: the body of R137 when `RESYNC_ON_LOW` is false, a resynchronization in the variant. -/
def wlFfBody (resyncOnLow : Bool) (b : Byte) (s : State) : State :=
  if resyncOnLow then resynchronize s else wlDataBody b s

/-- `STEP(b, i)` (R130): the transition `{phase, m(b)}` selects (40_session.md R106). -/
def stepByte (resyncOnLow : Bool) (b : Byte) (s : State) : State :=
  match s.phase, isMarker b with
  | .AM1, true => am1MarkBody b s
  | .AM1, false => am1OtherBody b s
  | .AM2, true => am2MarkBody b s
  | .AM2, false => am2OtherBody b s
  | .WH, true => whMarkBody b s
  | .WH, false => whDataBody b s
  | .WL, true => wlFfBody resyncOnLow b s
  | .WL, false => wlDataBody b s
  | .NWH, true => nwhMarkBody b s
  | .NWH, false => nwhDataBody b s

/-! ### The meanings -/

/-- `AM1_OTHER` (R132). -/
def execAm1Other (s : State) : Host.Outcome State Fault Refusal := runTransition .AM1 false am1OtherBody s

/-- `AM1_MARK` (R131). -/
def execAm1Mark (s : State) : Host.Outcome State Fault Refusal := runTransition .AM1 true am1MarkBody s

/-- `AM2_OTHER` (R134). -/
def execAm2Other (s : State) : Host.Outcome State Fault Refusal := runTransition .AM2 false am2OtherBody s

/-- `AM2_MARK` (R133). -/
def execAm2Mark (s : State) : Host.Outcome State Fault Refusal := runTransition .AM2 true am2MarkBody s

/-- `WH_DATA` (R136). -/
def execWhData (s : State) : Host.Outcome State Fault Refusal := runTransition .WH false whDataBody s

/-- `WH_MARK` (R135). -/
def execWhMark (s : State) : Host.Outcome State Fault Refusal := runTransition .WH true whMarkBody s

/-- `WL_DATA` (R137). -/
def execWlData (s : State) : Host.Outcome State Fault Refusal := runTransition .WL false wlDataBody s

/-- `WL_FF` (R138), with this hardware's `RESYNC_ON_LOW`. -/
def execWlFf (s : State) : Host.Outcome State Fault Refusal :=
  runTransition .WL true (wlFfBody Config.resyncOnLow) s

/-- `NWH_DATA` (R140). -/
def execNwhData (s : State) : Host.Outcome State Fault Refusal := runTransition .NWH false nwhDataBody s

/-- `NWH_MARK` (R139). -/
def execNwhMark (s : State) : Host.Outcome State Fault Refusal := runTransition .NWH true nwhMarkBody s

end Sys2Proof.Machine
end

