-- ==== Sys2Proof/Machine/Session.lean ====
section
/-! DEFINITION. The two session operations (40_session.md): `INIT` (R101) and `FEED` (R102 to R109). Each is atomic
(20_memory.md R58). `FEED` takes `RESYNC_ON_LOW` as an argument, so that claims can be stated for the variant. -/

namespace Sys2Proof.Machine

/-- The session reads `data` into the buffer and opens the scan: R104 and the first line of R105. -/
def openFeed (data : List Byte) (s : State) : State :=
  (s.bufAppend data).setAct (.scanning ⟨s.scan.toNat, 0, none⟩)

/-- One turn of the scan loop, none when the loop has ended (R105). -/
def scanTurn (resyncOnLow : Bool) (s : State) : Option State :=
  match s.act with
  | .scanning w =>
    match s.examined w with
    | some b => some (stepByte resyncOnLow b s).advanceIndex
    | none => none
  | .idle => none
  | .uninitialised => none

/-- The scan loop of R105, for at most `fuel` turns. -/
def scanLoop (resyncOnLow : Bool) : Nat → State → State
  | 0, s => s
  | fuel + 1, s =>
    match scanTurn resyncOnLow s with
    | some s' => scanLoop resyncOnLow fuel s'
    | none => s

/-- After the loop: `scan <- i`, compaction (R108) and the result (R109). The working values are gone (10_state.md
R29). -/
def closeFeed (w : Scan) (s : State) : State :=
  ((((s.setScan (BitVec.ofNat 5 w.i)).bufDropPrefix w.disc).setScan
    (BitVec.ofNat 5 w.i - BitVec.ofNat 5 w.disc)).setAct .idle).returnPending w.res

/-- The end of a scan in progress. -/
def endScan (s : State) : State :=
  match s.act with
  | .scanning w => closeFeed w s
  | .idle => s
  | .uninitialised => s

/-- `FEED(data)` of a session between operations (R102). The loop examines no byte twice, so `|buf|` turns are
enough. -/
def feed (resyncOnLow : Bool) (data : List Byte) (s : State) : State :=
  if s.buf.length + data.length > Config.cap then s.returnCapacityExceeded
  else endScan (scanLoop resyncOnLow (s.buf.length + data.length) (openFeed data s))

/-- `INIT` (R101). -/
def execInit (s : State) : Host.Outcome State Fault Refusal :=
  match s.act with
  | .scanning _ => .refused .overlappingOperation
  | .idle => .next s.startSession
  | .uninitialised => .next s.startSession

/-- `FEED` (R102) with either value of `RESYNC_ON_LOW`. -/
def feedWith (resyncOnLow : Bool) (data : List Byte) (s : State) : Host.Outcome State Fault Refusal :=
  match s.act with
  | .scanning _ => .refused .overlappingOperation
  | .idle => .next (feed resyncOnLow data s)
  | .uninitialised => .refused .uninitialised

/-- `FEED` (R102), with this hardware's `RESYNC_ON_LOW` (00_scope.md R7). -/
def execFeed (data : List Byte) (s : State) : Host.Outcome State Fault Refusal :=
  feedWith Config.resyncOnLow data s

end Sys2Proof.Machine
end

