-- ==== Sys2Proof/Machine/Dispatch.lean ====
section
/-! DEFINITION. The meaning of every instruction: one arm per constructor of Instr, each one call. -/

namespace Sys2Proof.Machine

def exec (i : Instr) (s : State) : Host.Outcome State Fault Refusal :=
  match i with
  -- session operations, 40_session.md
  | .init => Sys2Proof.Machine.execInit s
  | .feed data => Sys2Proof.Machine.execFeed data s
  -- Frame Decoder transitions, 41_frame_decoder.md
  | .am1Other => Sys2Proof.Machine.execAm1Other s
  | .am1Mark => Sys2Proof.Machine.execAm1Mark s
  | .am2Other => Sys2Proof.Machine.execAm2Other s
  | .am2Mark => Sys2Proof.Machine.execAm2Mark s
  | .whData => Sys2Proof.Machine.execWhData s
  | .whMark => Sys2Proof.Machine.execWhMark s
  | .wlData => Sys2Proof.Machine.execWlData s
  | .wlFf => Sys2Proof.Machine.execWlFf s
  | .nwhData => Sys2Proof.Machine.execNwhData s
  | .nwhMark => Sys2Proof.Machine.execNwhMark s

end Sys2Proof.Machine
end

