-- ==== Sys2Proof/Machine/Run.lean ====
section
/-! DEFINITION. What a step runs: the transition a scan selects (40_session.md R106), or the host's next request
(30_encoding.md R75). -/

namespace Sys2Proof.Machine

/-- One turn of the scan loop through the dispatch: the transition that `{phase, m(b)}` selects (R106), then
`i <- i + 1`. -/
def stepTransition (b : Byte) (s : State) : Host.Outcome State Fault Refusal :=
  match decodeSelector (selector s.phase b) with
  | none => .refused .reservedSelector
  | some i =>
    match exec i s with
    | .next t => .next t.advanceIndex
    | .fault r => .fault r
    | .refused r => .refused r

/-- The next request of the host, whole. With none to issue the block is idle and keeps its state (60_exceptions.md
R186; log entry 9). -/
def stepRequest (s : State) : Host.Outcome State Fault Refusal :=
  match s.takeRequest with
  | none => .next s
  | some (i, s') => exec i s'

end Sys2Proof.Machine
end

