-- ==== Sys2Proof/Machine/Step.lean ====
section
/-! DEFINITION. One step of the block. Between operations a step is one whole request of the host, since every
operation is atomic (20_memory.md R58, 70_reset_and_hazards.md R208). In a state with a scan in progress, which no run
from reset reaches, a step is one turn of the scan loop (40_session.md R105, R106) or its end (log entry 1). -/

namespace Sys2Proof.Machine

/-- One step. -/
def step (s : State) : Host.Outcome State Fault Refusal :=
  match s.act with
  | .scanning w =>
    match s.examined w with
    | some b => stepTransition b s
    | none => .next (endScan s)
  | .idle => stepRequest s
  | .uninitialised => stepRequest s

/-- The state in which the next step runs the instruction of a table word (log entries 6 and 7). A word that is no
instruction places nothing. -/
def State.withFetchWord (s : State) (nbits w : Nat) : State :=
  match decodeTableWord nbits w with
  | none => s
  | some i => s.placeInstr i

end Sys2Proof.Machine
end

