-- ==== Sys2Proof/Machine/Assembler.lean ====
section
/-! DEFINITION. The text syntax of 30_encoding.md R84 and the pseudo-operations of R85. -/

namespace Sys2Proof.Machine

/-- A line of a program: an operation, or a pseudo-operation of R85. -/
inductive AsmLine where
  | init
  | feed (data : List Byte)
  | nop
  | send (f : Frame)
  | skip (k : Nat)
  deriving DecidableEq, Repr

/-- Why the assembler refuses a line. -/
inductive AsmError where
  /-- The first word is no operation of R84 or R85. -/
  | unknownOperation
  /-- The operands do not read as the operation's. -/
  | badOperands
  /-- A word of `SEND` with high byte `0xFF`, which cannot be received (R85, 41_frame_decoder.md R143). -/
  | unreceivableWord
  deriving DecidableEq, Repr

/-- The word can be received: its high byte is not the marker (41_frame_decoder.md R143). -/
def receivableWord (w : Word) : Bool := !isMarker (Word.hiByte w)

/-- The operation a line stands for (R85). -/
def AsmLine.expand : AsmLine → Except AsmError Instr
  | .init => .ok .init
  | .feed data => .ok (.feed data)
  | .nop => .ok (.feed [])
  | .send f => if f.toList.all receivableWord then .ok (.feed (Frame.wire f)) else .error .unreceivableWord
  | .skip k => .ok (.feed (List.replicate k 0x00))

/-! ### Reading a line (the lexical details are log entry 13) -/

/-- The value of a hexadecimal digit. -/
def hexDigit (c : Char) : Option Nat :=
  if 48 ≤ c.toNat ∧ c.toNat ≤ 57 then some (c.toNat - 48)
  else if 65 ≤ c.toNat ∧ c.toNat ≤ 70 then some (c.toNat - 55)
  else if 97 ≤ c.toNat ∧ c.toNat ≤ 102 then some (c.toNat - 87)
  else none

/-- The number some digits of a base stand for, after the value `acc`. -/
def digits (base : Nat) (acc : Nat) : List Char → Option Nat
  | [] => some acc
  | c :: cs =>
    match hexDigit c with
    | none => none
    | some d => if d < base then digits base (base * acc + d) cs else none

/-- `0x…` (00_scope.md R8). -/
def hexNumber (text : List Char) : Option Nat :=
  match text with
  | '0' :: 'x' :: c :: cs => digits 16 0 (c :: cs)
  | _ => none

/-- A count: hexadecimal with `0x` in front, decimal without. -/
def countNumber (text : List Char) : Option Nat :=
  match hexNumber text with
  | some n => some n
  | none =>
    match text with
    | [] => none
    | c :: cs => digits 10 0 (c :: cs)

/-- White space inside a line. -/
def isBlank (c : Char) : Bool := c = ' ' || c = '\t' || c = '\r'

/-- A text without white space at its two ends. -/
def trimBlanks (text : List Char) : List Char := ((text.dropWhile isBlank).reverse.dropWhile isBlank).reverse

/-- The pieces of a text between the characters `sep`; `piece` holds the characters since the last one, reversed. -/
def splitAt (sep : Char) (piece : List Char) : List Char → List (List Char)
  | [] => [piece.reverse]
  | c :: cs => if c = sep then piece.reverse :: splitAt sep [] cs else splitAt sep (c :: piece) cs

/-- Comma-separated hexadecimal numbers below `bound`; an empty text has none. -/
def numbersBelow (bound : Nat) (text : List Char) : Option (List Nat) :=
  if text = [] then some []
  else (splitAt ',' [] text).mapM fun piece =>
    match hexNumber (trimBlanks piece) with
    | none => none
    | some n => if n < bound then some n else none

/-- A line without its comment (`;` starts one) and without white space at its ends. -/
def lineText (line : List Char) : List Char := trimBlanks (line.takeWhile (· ≠ ';'))

/-- The line some text stands for, none for a line that holds no operation. -/
def parseLine (line : List Char) : Except AsmError (Option AsmLine) :=
  let text := lineText line
  let op := text.takeWhile (fun c => !isBlank c)
  let operands := trimBlanks (text.dropWhile (fun c => !isBlank c))
  if op = [] then .ok none
  else if op = ['I', 'N', 'I', 'T'] then
    if operands = [] then .ok (some .init) else .error .badOperands
  else if op = ['N', 'O', 'P'] then
    if operands = [] then .ok (some .nop) else .error .badOperands
  else if op = ['F', 'E', 'E', 'D'] then
    match numbersBelow 256 operands with
    | none => .error .badOperands
    | some ns => .ok (some (.feed (ns.map (BitVec.ofNat 8))))
  else if op = ['S', 'E', 'N', 'D'] then
    match numbersBelow 65536 operands with
    | some [a, b, c, d, e, f, g, h] => .ok (some (.send (#v[a, b, c, d, e, f, g, h].map (BitVec.ofNat 16))))
    | _ => .error .badOperands
  else if op = ['S', 'K', 'I', 'P'] then
    match countNumber operands with
    | none => .error .badOperands
    | some k => .ok (some (.skip k))
  else .error .unknownOperation

/-- The requests of one line. -/
def assembleLine (line : List Char) : Except AsmError (List Request) :=
  match parseLine line with
  | .error e => .error e
  | .ok none => .ok []
  | .ok (some l) =>
    match l.expand with
    | .error e => .error e
    | .ok i => .ok i.request.toList

/-- The requests of a sequence of lines, the first refused line refusing the whole. -/
def assembleLines : List (List Char) → Except AsmError (List Request)
  | [] => .ok []
  | line :: rest =>
    match assembleLine line with
    | .error e => .error e
    | .ok rs =>
      match assembleLines rest with
      | .error e => .error e
      | .ok more => .ok (rs ++ more)

/-- The requests of a program text, one operation per line (R84). -/
def assemble (text : String) : Except AsmError (List Request) := assembleLines (splitAt '\n' [] text.toList)

end Sys2Proof.Machine
end

