-- ==== Sys2Proof/Machine/HostLoop.lean ====
section
/-! DEFINITION. The host loop of 60_exceptions.md R183, outside the block: it reads the Byte Source (R181), issues one
`FEED`, and delivers a completed frame to the consumer (R182). Only what the spec gives at the interface is modelled
(00_scope.md R4). -/

namespace Sys2Proof.Machine

/-- What `read()` answers (R181). The source does not say how an I/O failure is represented (91_not_in_source.md N10):
a code that is passed on unchanged. -/
inductive ReadAnswer where
  | bytes (data : List Byte)
  | noData
  | ioFailure (code : Nat)
  deriving DecidableEq, Repr

/-- The host with its session, and the frames the consumer has received, oldest first (R182). -/
structure HostLoop where
  session : State
  delivered : List Frame
  deriving DecidableEq, Repr

/-- How one turn of the host loop ends. -/
inductive HostOutcome where
  /-- The loop goes on. -/
  | next (h : HostLoop)
  /-- The loop returns the Byte Source's failure to its own caller, unchanged (R172). -/
  | failed (code : Nat) (h : HostLoop)
  /-- The block or the host gives the operation no meaning. Safe. -/
  | refused (r : Refusal)
  deriving DecidableEq, Repr

/-- The host takes the result of the session's last operation from its bits: a `FRAME` is delivered once, any other
result delivers nothing, the reserved status is refused (30_encoding.md R79). -/
def HostLoop.takeResult (h : HostLoop) : HostOutcome :=
  match Result.ofBits h.session.result.toBits with
  | none => .refused .reservedStatus
  | some ⟨.frame, w, _⟩ => .next { h with delivered := h.delivered ++ [w] }
  | some ⟨.noFrame, _, _⟩ => .next h
  | some ⟨.capacityExceeded, _, _⟩ => .next h

/-- The host issues one `FEED` and takes its result. -/
def HostLoop.issueFeed (h : HostLoop) (data : List Byte) : HostOutcome :=
  match exec (.feed data) h.session with
  | .next s => HostLoop.takeResult { h with session := s }
  | .fault r => nomatch r
  | .refused r => .refused r

/-- One turn of the loop of R183. "No data" is an empty `FEED` (R181, 90_conflicts.md C8). -/
def hostTurn (answer : ReadAnswer) (h : HostLoop) : HostOutcome :=
  match answer with
  | .ioFailure code => .failed code h
  | .noData => h.issueFeed []
  | .bytes data => h.issueFeed data

/-- A host that has read more bytes than the room of the last result splits them: it issues as many as the room
admits, and the rest only when the result of that `FEED` has given the new room (R183, 70_reset_and_hazards.md R205).
The room is at least 1 after every operation (30_encoding.md R77), so `fuel` feeds are enough for `fuel` bytes. -/
def issueWithinRoom : Nat → List Byte → HostLoop → HostOutcome
  | _, [], h => .next h
  | 0, _ :: _, h => .next h
  | fuel + 1, b :: data, h =>
    let room := h.session.result.room.toNat
    match h.issueFeed ((b :: data).take room) with
    | .next h' => issueWithinRoom fuel ((b :: data).drop room) h'
    | .failed code h' => .failed code h'
    | .refused r => .refused r

end Sys2Proof.Machine
end

