-- ==== Sys2Proof/Machine/Sessions.lean ====
section
/-! DEFINITION. Several sessions side by side (60_exceptions.md R184): independent instances with no shared state. The
host's name for a session is its place in the list; the block assigns none. -/

namespace Sys2Proof.Machine

/-- One instruction on session `k`. The operations of all sessions are issued one after another, as 70_reset_and_hazards.md
R206 asks of the host. -/
def sessionsExec (k : Nat) (i : Instr) (ss : List State) : Host.Outcome (List State) Fault Refusal :=
  match ss[k]? with
  | none => .refused .noSuchSession
  | some s =>
    match exec i s with
    | .next t => .next (ss.set k t)
    | .fault r => .fault r
    | .refused r => .refused r

end Sys2Proof.Machine
end

