-- ==== Sys2Proof/Safety.lean ====
section
/-! DEFINITION. What claims are stated in terms of: the candidate frame the registers describe (10_state.md R35), the
invariant of R33 to R35 at an operation boundary and inside a scan, and a sequence of `FEED`s none of which returns
`CAPACITY_EXCEEDED` (the premise 70_reset_and_hazards.md R205 asks of claims about a stream). -/

namespace Sys2Proof.Machine

/-- `|buf|` at an operation boundary as a function of `phase` and `count` (10_state.md R34). -/
def candidateLength (p : Phase) (count : BitVec 3) : Nat :=
  match p with
  | .AM1 => 0
  | .AM2 => 1
  | .WH => 2
  | .WL => 3 + 2 * count.toNat
  | .NWH => 2 + 2 * count.toNat

/-- The completed words of the candidate frame. -/
def State.completedWords (s : State) : List Word := s.words.toList.take s.count.toNat

/-- The bytes of the candidate frame in progress, as the registers tell them (10_state.md R35). -/
def State.candidate (s : State) : List Byte :=
  match s.phase with
  | .AM1 => []
  | .AM2 => [Config.marker]
  | .WH => [Config.marker, Config.marker]
  | .WL => Config.marker :: Config.marker :: wordsToBytes s.completedWords ++ [s.hi]
  | .NWH => Config.marker :: Config.marker :: wordsToBytes s.completedWords

/-- A word the decoder can emit (41_frame_decoder.md R143): its high byte is not the marker, and in the variant
neither is its low byte. -/
def emittableWord (resyncOnLow : Bool) (w : Word) : Bool :=
  receivableWord w && !(resyncOnLow && isMarker (Word.loByte w))

/-- What 10_state.md R34 and R35 say of `count`, of the completed words and of the pending high byte. -/
def State.legalRegisters (resyncOnLow : Bool) (s : State) : Bool :=
  match s.phase with
  | .AM1 => true
  | .AM2 => true
  | .WH => decide (s.count = 0)
  | .WL => s.completedWords.all (emittableWord resyncOnLow) && !isMarker s.hi
  | .NWH => decide (s.count ≠ 0) && s.completedWords.all (emittableWord resyncOnLow)

/-- A result with a frame carries words that can be emitted; any other carries the zero frame (30_encoding.md R77). -/
def Result.legal (resyncOnLow : Bool) (r : Result) : Bool :=
  match r.status with
  | .frame => r.frame.toList.all (emittableWord resyncOnLow)
  | .noFrame => decide (r.frame = zeroFrame)
  | .capacityExceeded => decide (r.frame = zeroFrame)

/-- The invariant at an operation boundary: 10_state.md R33 (`scan = |buf|`), R34 and R35 (the buffer is the
candidate frame in progress), and a last result that is legal and tells the room. -/
abbrev State.BoundaryInv (resyncOnLow : Bool) (s : State) : Prop :=
  s.buf = s.candidate ∧ s.legalRegisters resyncOnLow = true ∧ s.scan.toNat = s.buf.length ∧
    s.result.legal resyncOnLow = true ∧ s.result.room.toNat = Config.cap - s.buf.length

/-- The invariant inside a scan: the examined bytes that are not discarded are the candidate frame in progress; when
a frame is pending, the buffer is that frame and all of it is examined and discarded (40_session.md R111). -/
abbrev State.ScanInv (resyncOnLow : Bool) (w : Scan) (s : State) : Prop :=
  s.buf.length ≤ Config.cap ∧ w.disc ≤ w.i ∧ w.i ≤ s.buf.length ∧
    (s.buf.take w.i).drop w.disc = s.candidate ∧ s.legalRegisters resyncOnLow = true ∧
    (∀ f ∈ w.res, s.phase = .AM1 ∧ s.count = 0 ∧ w.disc = w.i ∧ w.i = s.buf.length ∧ s.buf = Frame.wire f ∧
      f.toList.all (emittableWord resyncOnLow) = true)

/-- The invariant of a session, whatever it is doing. An uninitialised session has no legal contents to state. -/
abbrev State.Inv (resyncOnLow : Bool) (s : State) : Prop :=
  match s.act with
  | .uninitialised => True
  | .idle => s.BoundaryInv resyncOnLow
  | .scanning w => s.ScanInv resyncOnLow w

/-- The session is between two operations and meets the invariant. -/
abbrev State.AtBoundary (resyncOnLow : Bool) (s : State) : Prop := s.act = .idle ∧ s.BoundaryInv resyncOnLow

/-- The frames a result delivers: one or none (30_encoding.md R77). -/
def Result.frames (r : Result) : List Frame :=
  match r.status with
  | .frame => [r.frame]
  | .noFrame => []
  | .capacityExceeded => []

/-- Feed chunks one after another; the frames delivered, in order, and the final state. None if a `FEED` is refused
or returns `CAPACITY_EXCEEDED` (70_reset_and_hazards.md R205). -/
def feedChunks (resyncOnLow : Bool) : List (List Byte) → State → Option (List Frame × State)
  | [], s => some ([], s)
  | c :: cs, s =>
    match feedWith resyncOnLow c s with
    | .next t =>
      if t.result.status = .capacityExceeded then none
      else
        match feedChunks resyncOnLow cs t with
        | none => none
        | some (fs, u) => some (t.result.frames ++ fs, u)
    | .fault _ => none
    | .refused _ => none

/-- The chunks of one byte each. -/
def singleBytes (stream : List Byte) : List (List Byte) := stream.map fun b => [b]

end Sys2Proof.Machine
end

