-- ==== Sys2Proof/Certificates/Slice0/Obligations.lean ====
section
/-! DEFINITION. The statements for the provers. Each docstring names the rule of spec/ it formalises. The fields `act`,
`result` and `requests` are the model's own (log entries 2, 4 and 3): what the session is doing, what an operation
returned, what the host has still to issue. -/

open Sys2Proof Sys2Proof.Machine

/-! ### Reset and the session operations -/

/-- R32: the reset value of every state element, after power-on and after `INIT` of any session not inside an
operation. -/
def Obligations.ResetStateIsEstablished : Prop :=
  let atReset (t : State) : Prop :=
    t.phase = .AM1 ∧ t.count = 0 ∧ t.hi = 0x00 ∧ (∀ j (h : j < 8), t.words[j] = 0x0000) ∧ t.buf = [] ∧ t.scan = 0
  atReset State.reset ∧ (∀ s : State, atReset s.powerOnReset) ∧
    ∀ s : State, (∀ w, s.act ≠ .scanning w) → ∃ t, exec .init s = .next t ∧ atReset t

/-- R101: `INIT` completes for every session not inside an operation, with the whole state it leaves; a second `INIT`
leaves the same state. -/
def Obligations.InitStartsTheSession : Prop :=
  ∀ s : State, (∀ w, s.act ≠ .scanning w) →
    let t : State :=
      { phase := .AM1, count := 0, hi := 0x00, words := Vector.replicate 8 0x0000, buf := [], scan := 0,
        act := .idle, result := ⟨.noFrame, Vector.replicate 8 0x0000, 18⟩, requests := s.requests }
    exec .init s = .next t ∧ exec .init t = .next t

/-- R103: a `FEED` that would overfill the buffer is rejected whole; only the result says so. The bound on `|buf|` is
R25's. -/
def Obligations.OverfillingFeedIsRejectedWhole : Prop :=
  ∀ (s : State) (data : List Byte), s.act = .idle → s.buf.length ≤ 18 → s.buf.length + data.length > 18 →
    exec (.feed data) s =
      .next { s with result := ⟨.capacityExceeded, Vector.replicate 8 0x0000, BitVec.ofNat 5 (18 - s.buf.length)⟩ }

/-- R171: `CAPACITY_EXCEEDED` is raised by `FEED` only, exactly when the data does not fit, with the room before and
after and a zero frame. A transition (an instruction the host has no request for) leaves the result alone. -/
def Obligations.CapacityExceededCause : Prop :=
  (∀ (s t : State) (data : List Byte), exec (.feed data) s = .next t →
    ((t.result.status = .capacityExceeded ↔ s.buf.length + data.length > 18) ∧
     (t.result.status = .capacityExceeded →
       t = { s with result := t.result } ∧ t.result.frame = zeroFrame ∧
         (s.buf.length ≤ 18 → t.result.room.toNat = 18 - s.buf.length)))) ∧
  (∀ s t : State, exec .init s = .next t → t.result.status = .noFrame) ∧
  (∀ (i : Instr) (s t : State), i.request = none → exec i s = .next t → t.result = s.result)

/-- R104, R108, R109: a `FEED` that fits completes in every idle state. The new buffer is the old one with the data
appended and one prefix removed; the result tells the room after it and the frame, if any; nothing is left of the
scan. In an idle state with `scan` beyond the buffer, which no run reaches, that the scan examines nothing is the
model's choice (log entry 12). -/
def Obligations.FittingFeedCompletes : Prop :=
  ∀ (s : State) (data : List Byte), s.act = .idle → s.buf.length + data.length ≤ 18 →
    ∃ t, exec (.feed data) s = .next t ∧ t.act = .idle ∧ t.requests = s.requests ∧
      (∃ k, t.buf = (s.buf ++ data).drop k) ∧
      t.result.room = BitVec.ofNat 5 (18 - t.buf.length) ∧
      ((t.result.status = .noFrame ∧ t.result.frame = zeroFrame) ∨
       (t.result.status = .frame ∧ t.result.frame = t.words ∧ t.phase = .AM1 ∧ t.count = 0))

/-- R58, R102, R105, R106, R113: an accepted `FEED` is, as one step, what opening the scan and then stepping through
its transitions and its end gives; at most one transition for each byte not yet examined. That a scan can be stepped is
the model's choice (log entry 1), and so is what a scan does whose `scan` lies beyond the buffer (log entry 12). -/
def Obligations.FeedIsItsTransitionsInOneStep : Prop :=
  ∀ (s : State) (data : List Byte), s.act = .idle → s.buf.length + data.length ≤ 18 →
    ∃ k t, k ≤ s.buf.length + data.length - s.scan.toNat + 1 ∧ exec (.feed data) s = .next t ∧ t.act = .idle ∧
      Host.Core.run Sys2Proof.core k
        { s with buf := s.buf ++ data, act := .scanning ⟨s.scan.toNat, 0, none⟩ } = .next t

/-- R110: the empty `FEED` changes nothing and answers `NO_FRAME` with the room. -/
def Obligations.EmptyFeedIsNoOp : Prop :=
  ∀ s : State, s.AtBoundary Config.resyncOnLow →
    exec (.feed []) s =
      .next { s with result := ⟨.noFrame, Vector.replicate 8 0x0000, BitVec.ofNat 5 (18 - s.buf.length)⟩ }

/-- R77, R205: after every operation the room is at least 1 and a `FEED` within the room is accepted, one of a byte
more is not. -/
def Obligations.RoomIsWhatTheNextFeedMayCarry : Prop :=
  ∀ s : State, s.AtBoundary Config.resyncOnLow →
    1 ≤ s.result.room.toNat ∧
    ∀ data : List Byte, ∃ t, exec (.feed data) s = .next t ∧
      (t.result.status = .capacityExceeded ↔ s.result.room.toNat < data.length)

/-- R111: when a `FEED` emits a frame, the buffer was exactly that frame's 18 bytes and is empty afterwards. -/
def Obligations.FrameIsTheWholeBuffer : Prop :=
  ∀ (resyncOnLow : Bool) (s t : State) (data : List Byte), s.AtBoundary resyncOnLow →
    feedWith resyncOnLow data s = .next t → t.result.status = .frame →
      s.buf ++ data = Frame.wire t.result.frame ∧ t.buf = [] ∧ t.scan = 0 ∧ t.phase = .AM1

/-- R111, R112: the other way round, a `FEED` that brings the buffer to a receivable frame on the wire emits it. -/
def Obligations.WholeFrameIsEmitted : Prop :=
  ∀ (resyncOnLow : Bool) (s : State) (data : List Byte) (f : Frame), s.AtBoundary resyncOnLow →
    s.buf ++ data = Frame.wire f → (∀ w ∈ f.toList, emittableWord resyncOnLow w = true) →
      ∃ t, feedWith resyncOnLow data s = .next t ∧ t.result.status = .frame ∧ t.result.frame = f

/-- R112: feeding chunks that are all accepted delivers the same frames and leaves the same session as feeding the
bytes one at a time. The result field alone may differ: it is the last operation's. -/
def Obligations.ChunkingDoesNotMatter : Prop :=
  ∀ (resyncOnLow : Bool) (s t : State) (chunks : List (List Byte)) (fs : List Frame), s.AtBoundary resyncOnLow →
    feedChunks resyncOnLow chunks s = some (fs, t) →
      ∃ t', feedChunks resyncOnLow (singleBytes chunks.flatten) s = some (fs, t') ∧ t' = { t with result := t'.result }

/-- R112, the source's property: from an empty buffer, a marker and 16 payload bytes that can be received give exactly
the frame of their big-endian words, whatever the chunks. -/
def Obligations.AnyChunkingOfAFrameDeliversIt : Prop :=
  ∀ (resyncOnLow : Bool) (s t : State) (chunks : List (List Byte)) (fs : List Frame) (f : Frame),
    s.AtBoundary resyncOnLow → s.buf = [] → chunks.flatten = Frame.wire f →
    (∀ w ∈ f.toList, emittableWord resyncOnLow w = true) →
    feedChunks resyncOnLow chunks s = some (fs, t) → fs = [f] ∧ t.buf = [] ∧ t.phase = .AM1

/-- R37: the state at an operation boundary depends on the accepted bytes only, not on how they were split. -/
def Obligations.StateIsAFunctionOfTheBytes : Prop :=
  ∀ (chunks chunks' : List (List Byte)) (fs fs' : List Frame) (t t' : State),
    feedChunks Config.resyncOnLow chunks State.reset = some (fs, t) →
    feedChunks Config.resyncOnLow chunks' State.reset = some (fs', t') →
    chunks.flatten = chunks'.flatten → fs = fs' ∧ t' = { t with result := t'.result }

/-- R176, R177: `CAPACITY_EXCEEDED` leaves the state as it was, after it every operation runs as if the rejected `FEED`
had not been issued, and a `FEED` within the room succeeds. -/
def Obligations.CapacityErrorDoesNotLatch : Prop :=
  ∀ (s t : State) (data : List Byte), s.AtBoundary Config.resyncOnLow → exec (.feed data) s = .next t →
    t.result.status = .capacityExceeded →
      t = { s with result := t.result } ∧ exec .init t = exec .init s ∧ (∀ data', exec (.feed data') t = exec (.feed data') s) ∧
      ∀ data', data'.length ≤ t.result.room.toNat →
        ∃ u, exec (.feed data') t = .next u ∧ u.result.status ≠ .capacityExceeded

/-- R182, R207: no operation reads the result of an earlier one back. -/
def Obligations.ResultIsNeverReadBack : Prop :=
  ∀ (s : State) (r : Result), exec .init { s with result := r } = exec .init s ∧
    ∀ data, exec (.feed data) { s with result := r } = exec (.feed data) s

/-- R202, R206 (log entry 2): a `FEED` to a session never initialised and an operation inside another one are refused
by name. -/
def Obligations.OperationsWithoutMeaningAreRefused : Prop :=
  (∀ (s : State) (data : List Byte), s.act = .uninitialised → exec (.feed data) s = .refused .uninitialised) ∧
  (∀ (s : State) (w : Scan), s.act = .scanning w → exec .init s = .refused .overlappingOperation ∧
    ∀ data, exec (.feed data) s = .refused .overlappingOperation)

/-! ### Invariants -/

/-- R201: the reset state is at an operation boundary that meets the invariant, for both readings of `RESYNC_ON_LOW`. -/
def Obligations.ResetMeetsTheInvariant : Prop :=
  ∀ resyncOnLow : Bool, State.reset.AtBoundary resyncOnLow

/-- R33, R34, R35, R111: from every state that meets the invariant, inside a scan too (whose steps are the model's
choice, log entry 1), a step leads to one that meets it. -/
def Obligations.EveryStepKeepsTheInvariant : Prop :=
  ∀ s t : State, s.Inv Config.resyncOnLow → step s = .next t → t.Inv Config.resyncOnLow

/-- R33, R34, R35 for both readings of `RESYNC_ON_LOW` (00_scope.md R7): every `FEED` leads from boundary to boundary. -/
def Obligations.EveryFeedKeepsTheBoundary : Prop :=
  ∀ (resyncOnLow : Bool) (s t : State) (data : List Byte), s.AtBoundary resyncOnLow →
    feedWith resyncOnLow data s = .next t → t.AtBoundary resyncOnLow

/-- R34: at an operation boundary the length of the buffer is a function of phase and count, and at most 17. -/
def Obligations.BufferLengthFollowsPhaseAndCount : Prop :=
  ∀ (resyncOnLow : Bool) (s : State), s.AtBoundary resyncOnLow →
    (s.phase = .AM1 → s.buf.length = 0) ∧ (s.phase = .AM2 → s.buf.length = 1) ∧
    (s.phase = .WH → s.buf.length = 2 ∧ s.count = 0) ∧
    (s.phase = .WL → s.buf.length = 3 + 2 * s.count.toNat ∧ s.count.toNat ≤ 7) ∧
    (s.phase = .NWH → s.buf.length = 2 + 2 * s.count.toNat ∧ 1 ≤ s.count.toNat ∧ s.count.toNat ≤ 7) ∧
    s.buf.length ≤ 17

/-- R35: at an operation boundary the buffer holds exactly the candidate frame in progress, byte by byte. -/
def Obligations.BufferHoldsTheCandidateFrame : Prop :=
  ∀ (resyncOnLow : Bool) (s : State), s.AtBoundary resyncOnLow →
    (1 ≤ s.buf.length → s.buf[0]? = some 0xFF) ∧ (2 ≤ s.buf.length → s.buf[1]? = some 0xFF) ∧
    (s.phase = .WL ∨ s.phase = .NWH → ∀ j (h : j < s.count.toNat), ∃ b c : Byte,
      s.buf[2 + 2 * j]? = some b ∧ s.buf[3 + 2 * j]? = some c ∧
      s.words[j]'(Nat.lt_trans h s.count.isLt) = b ++ c ∧ b ≠ 0xFF ∧ (resyncOnLow = true → c ≠ 0xFF)) ∧
    (s.phase = .WL → s.buf[s.buf.length - 1]? = some s.hi ∧ s.hi ≠ 0xFF)

/-- R20, R22, R23, R36 and 93_implementation_defined.md section 3: the values the spec calls unobservable are; two
sessions with the same buffer answer every `FEED` alike. -/
def Obligations.LeftoverRegistersAreUnobservable : Prop :=
  ∀ (resyncOnLow : Bool) (s u s' u' : State) (data : List Byte), s.AtBoundary resyncOnLow → u.AtBoundary resyncOnLow →
    s.buf = u.buf → feedWith resyncOnLow data s = .next s' → feedWith resyncOnLow data u = .next u' →
      s'.result = u'.result ∧ s'.buf = u'.buf ∧ s'.phase = u'.phase

/-- 90_conflicts.md C5: a machine that rescans the buffer from index 0 with the phase reset to `AM1` on every `FEED`
is equivalent; only the scratch byte, which no rule reads outside `WL`, may differ. -/
def Obligations.RescanningFromZeroIsEquivalent : Prop :=
  ∀ (resyncOnLow : Bool) (s t : State) (data : List Byte), s.AtBoundary resyncOnLow →
    feedWith resyncOnLow data s = .next t → s.buf.length + data.length ≤ 18 →
      ∃ t', feedWith resyncOnLow data { s with phase := .AM1, scan := 0 } = .next t' ∧
        { t' with hi := t.hi } = t ∧ (t.phase = .WL → t'.hi = t.hi)

/-! ### The ten transitions -/

/-- R131. -/
def Obligations.Am1MarkResult : Prop :=
  (∀ (s : State) (w : Scan) (b : Byte), s.act = .scanning w → w.res = none → s.buf[w.i]? = some b →
    s.phase = .AM1 → b = 0xFF → exec .am1Mark s = .next { s with phase := .AM2 }) ∧
  ∃ t, exec (.feed [0xFF]) State.reset = .next t ∧ t.phase = .AM2 ∧ t.buf = [0xFF] ∧ t.result.status = .noFrame ∧
    t.result.room = 17

/-- R132. -/
def Obligations.Am1OtherResult : Prop :=
  (∀ (s : State) (w : Scan) (b : Byte), s.act = .scanning w → w.res = none → s.buf[w.i]? = some b →
    s.phase = .AM1 → b ≠ 0xFF → exec .am1Other s = .next { s with act := .scanning { w with disc := w.i + 1 } }) ∧
  ∃ t, exec (.feed [0x01, 0x02, 0x03]) State.reset = .next t ∧ t.phase = .AM1 ∧ t.buf = [] ∧
    t.result.status = .noFrame ∧ t.result.room = 18

/-- R133. -/
def Obligations.Am2MarkResult : Prop :=
  (∀ (s : State) (w : Scan) (b : Byte), s.act = .scanning w → w.res = none → s.buf[w.i]? = some b →
    s.phase = .AM2 → b = 0xFF → exec .am2Mark s = .next { s with phase := .WH, count := 0 }) ∧
  ∃ t, exec (.feed [0xFF, 0xFF]) State.reset = .next t ∧ t.phase = .WH ∧ t.count = 0 ∧ t.buf = [0xFF, 0xFF] ∧
    t.result.room = 16

/-- R134. -/
def Obligations.Am2OtherResult : Prop :=
  (∀ (s : State) (w : Scan) (b : Byte), s.act = .scanning w → w.res = none → s.buf[w.i]? = some b →
    s.phase = .AM2 → b ≠ 0xFF →
      exec .am2Other s = .next { s with phase := .AM1, act := .scanning { w with disc := w.i + 1 } }) ∧
  ∃ t, exec (.feed [0xFF, 0x12]) State.reset = .next t ∧ t.phase = .AM1 ∧ t.buf = [] ∧ t.result.status = .noFrame ∧
    t.result.room = 18

/-- R135, with the run of marker bytes of its corner cases. -/
def Obligations.WhMarkResult : Prop :=
  (∀ (s : State) (w : Scan) (b : Byte), s.act = .scanning w → w.res = none → s.buf[w.i]? = some b →
    s.phase = .WH → b = 0xFF →
      exec .whMark s = .next { s with phase := .AM2, act := .scanning { w with disc := w.i } }) ∧
  (∃ t, exec (.feed [0xFF, 0xFF, 0xFF]) State.reset = .next t ∧ t.phase = .AM2 ∧ t.buf = [0xFF] ∧
    t.result.room = 17) ∧
  ∀ k, 1 ≤ k → ∃ t, feedChunks Config.resyncOnLow (singleBytes (List.replicate k 0xFF)) State.reset = some ([], t) ∧
    (k % 2 = 1 → t.phase = .AM2 ∧ t.buf = [0xFF]) ∧ (k % 2 = 0 → t.phase = .WH ∧ t.buf = [0xFF, 0xFF])

/-- R136. -/
def Obligations.WhDataResult : Prop :=
  (∀ (s : State) (w : Scan) (b : Byte), s.act = .scanning w → w.res = none → s.buf[w.i]? = some b →
    s.phase = .WH → b ≠ 0xFF → exec .whData s = .next { s with hi := b, phase := .WL }) ∧
  ∃ t, exec (.feed [0x12]) { State.reset with phase := .WH, buf := [0xFF, 0xFF], scan := 2 } = .next t ∧
    t.hi = 0x12 ∧ t.phase = .WL ∧ t.buf = [0xFF, 0xFF, 0x12] ∧ t.result.room = 15

/-- R137: a word below the eighth is stored and counted; the eighth completes the frame. -/
def Obligations.WlDataResult : Prop :=
  (∀ (s : State) (w : Scan) (b : Byte), s.act = .scanning w → w.res = none → s.buf[w.i]? = some b →
    s.phase = .WL → b ≠ 0xFF → s.count.toNat < 7 →
      exec .wlData s = .next { s with
        words := s.words.set s.count.toNat (s.hi ++ b) s.count.isLt, count := s.count + 1, phase := .NWH }) ∧
  (∀ (s : State) (w : Scan) (b : Byte), s.act = .scanning w → w.res = none → s.buf[w.i]? = some b →
    s.phase = .WL → b ≠ 0xFF → s.count = 7 →
      exec .wlData s = .next { s with
        words := s.words.set 7 (s.hi ++ b), count := 0, phase := .AM1,
        act := .scanning { w with disc := w.i + 1, res := some (s.words.set 7 (s.hi ++ b)) } }) ∧
  ∃ t, exec (.feed [0x34])
      { State.reset with phase := .WL, hi := 0x12, buf := [0xFF, 0xFF, 0x12], scan := 3 } = .next t ∧
    t.words[0] = 0x1234 ∧ t.count = 1 ∧ t.phase = .NWH

/-- R138: with `RESYNC_ON_LOW` false, as this hardware has it, the body of R137; in the variant a resynchronization. -/
def Obligations.WlFfResult : Prop :=
  (∀ (s : State) (w : Scan) (b : Byte), s.act = .scanning w → w.res = none → s.buf[w.i]? = some b →
    s.phase = .WL → b = 0xFF → s.count.toNat < 7 →
      exec .wlFf s = .next { s with
        words := s.words.set s.count.toNat (s.hi ++ (0xFF : Byte)) s.count.isLt, count := s.count + 1,
        phase := .NWH }) ∧
  (∀ (s : State) (w : Scan) (b : Byte), s.act = .scanning w → w.res = none → s.buf[w.i]? = some b →
    s.phase = .WL → b = 0xFF → s.count = 7 →
      exec .wlFf s = .next { s with
        words := s.words.set 7 (s.hi ++ (0xFF : Byte)), count := 0, phase := .AM1,
        act := .scanning { w with disc := w.i + 1, res := some (s.words.set 7 (s.hi ++ (0xFF : Byte))) } }) ∧
  (∀ (s : State) (w : Scan) (b : Byte), s.act = .scanning w → w.res = none → s.buf[w.i]? = some b →
    s.phase = .WL → b = 0xFF →
      runTransition .WL true (wlFfBody true) s =
        .next { s with phase := .AM2, act := .scanning { w with disc := w.i } }) ∧
  (∀ resyncOnLow, ∃ t, feedWith resyncOnLow [0xFF]
      { State.reset with phase := .WL, hi := 0x03, buf := [0xFF, 0xFF, 0x03], scan := 3 } = .next t ∧
    (resyncOnLow = false → t.words[0] = 0x03FF ∧ t.count = 1 ∧ t.phase = .NWH ∧ t.buf.length = 4) ∧
    (resyncOnLow = true → t.buf = [0xFF] ∧ t.phase = .AM2))

/-- R139. -/
def Obligations.NwhMarkResult : Prop :=
  (∀ (s : State) (w : Scan) (b : Byte), s.act = .scanning w → w.res = none → s.buf[w.i]? = some b →
    s.phase = .NWH → b = 0xFF →
      exec .nwhMark s = .next { s with phase := .AM2, act := .scanning { w with disc := w.i } }) ∧
  ∃ t, exec (.feed [0xFF, 0xFF, 0x00, 0x01, 0x00, 0x02, 0x00, 0x03, 0xFF]) State.reset = .next t ∧
    t.buf = [0xFF] ∧ t.phase = .AM2 ∧ t.count = 3 ∧ t.result.room = 17

/-- R140. -/
def Obligations.NwhDataResult : Prop :=
  (∀ (s : State) (w : Scan) (b : Byte), s.act = .scanning w → w.res = none → s.buf[w.i]? = some b →
    s.phase = .NWH → b ≠ 0xFF → exec .nwhData s = .next { s with hi := b, phase := .WL }) ∧
  ∃ t, exec (.feed [0x00])
      { State.reset with phase := .NWH, count := 1, words := State.reset.words.set 0 0x0001,
                         buf := [0xFF, 0xFF, 0x00, 0x01], scan := 4 } = .next t ∧
    t.phase = .WL ∧ t.hi = 0x00 ∧ t.buf.length = 5

/-- R106, R130: for every phase and byte the selector names one transition, which completes; it never writes the
buffer, the cursor, the result or the index. R105 moves the index on. That the machine's step in a scan state is this
one transition with the index moved on is the model's choice (log entry 1). -/
def Obligations.StepAppliesTheSelectedTransition : Prop :=
  ∀ (s : State) (w : Scan) (b : Byte), s.act = .scanning w → w.res = none → s.buf[w.i]? = some b →
    ∃ i t w', decodeSelector (s.phase.code ++ (if b = 0xFF then 1#1 else 0#1)) = some i ∧
      exec i s = .next t ∧ t.act = .scanning w' ∧ w'.i = w.i ∧
      t.buf = s.buf ∧ t.scan = s.scan ∧ t.result = s.result ∧ t.requests = s.requests ∧
      step s = .next { t with act := .scanning { w' with i := w.i + 1 } }

/-- R107, R142: a transition writes the discard marker with the index, or the index plus one, or not at all; it never
decreases, and `count` moves by one or goes to 0. -/
def Obligations.DiscardMarkerNeverDecreases : Prop :=
  ∀ (i : Instr) (s t : State) (w : Scan), i.request = none → s.act = .scanning w → w.disc ≤ w.i →
    exec i s = .next t → ∃ w', t.act = .scanning w' ∧ w.disc ≤ w'.disc ∧ w'.disc ≤ w.i + 1 ∧
      (w'.disc = w.disc ∨ w'.disc = w.i ∨ w'.disc = w.i + 1) ∧
      (t.count = s.count ∨ t.count.toNat = s.count.toNat + 1 ∨ t.count = 0)

/-- R146: `WH` and `NWH` treat every byte alike: their transitions have the same outcome but for the phase they start
from. -/
def Obligations.HighBytePhasesBehaveAlike : Prop :=
  ∀ s : State,
    exec .whMark { s with phase := .WH } = exec .nwhMark { s with phase := .NWH } ∧
    exec .whData { s with phase := .WH } = exec .nwhData { s with phase := .NWH }

/-- R106 (log entry 8): a transition runs only inside a scan that has selected it; elsewhere it is refused by name. -/
def Obligations.UnselectedTransitionsAreRefused : Prop :=
  ∀ (i : Instr) (s : State), i.request = none →
    ((∀ w, s.act ≠ .scanning w) → exec i s = .refused .notScanning) ∧
    (∀ w, s.act = .scanning w → w.res ≠ none ∨ s.buf.length ≤ w.i → exec i s = .refused .noByteToExamine) ∧
    (∀ w b, s.act = .scanning w → w.res = none → s.buf[w.i]? = some b →
      decodeSelector (selector s.phase b) ≠ some i → exec i s = .refused .notSelected)

/-! ### The step -/

/-- R58, R75, R100: between operations a step takes the host's next request and is that whole operation. -/
def Obligations.StepRunsTheNextRequest : Prop :=
  ∀ (s : State) (r : Request) (rs : List Request), (∀ w, s.act ≠ .scanning w) → s.requests = r :: rs →
    (r.op = 0 → step s = exec .init { s with requests := rs }) ∧
    (r.op = 1 → step s = exec (.feed r.data) { s with requests := rs })

/-- R186 (log entry 9): with no request to issue, the block keeps its state. -/
def Obligations.StepWithoutRequestKeepsState : Prop :=
  ∀ s : State, (∀ w, s.act ≠ .scanning w) → s.requests = [] → step s = .next s

/-- R105, R108, R109: when the scan has ended, the step sets the cursor, removes the discarded prefix and returns the
result. That this end is a step of its own is the model's choice (log entry 1). It is stated for every scan state; in
those no run reaches, the cursor modulo 32, a prefix beyond the buffer, the room of an overlong buffer and an index
beyond the buffer are the model's choices too (log entry 12). -/
def Obligations.StepEndsTheScan : Prop :=
  ∀ (s : State) (w : Scan), s.act = .scanning w → (w.res ≠ none ∨ s.buf.length ≤ w.i) →
    step s = .next { s with
      scan := BitVec.ofNat 5 w.i - BitVec.ofNat 5 w.disc, buf := s.buf.drop w.disc, act := .idle,
      result := match w.res with
        | none => ⟨.noFrame, zeroFrame, BitVec.ofNat 5 (18 - (s.buf.drop w.disc).length)⟩
        | some f => ⟨.frame, f, BitVec.ofNat 5 (18 - (s.buf.drop w.disc).length)⟩ }

/-- R145, R170: a session that has been started never stops: every step of it leads to a next state, and it stays
started. That it can be stepped inside a scan and idles without a request is the model's choice (log entries 1, 9), and
so is the step of a scan state no run reaches (log entry 12). -/
def Obligations.StartedSessionNeverStops : Prop :=
  ∀ s : State, s.act ≠ .uninitialised → ∃ t, step s = .next t ∧ t.act ≠ .uninitialised

/-! ### Encodings -/

/-- R76, R80: decoding an encoded well-formed instruction gives it back. -/
def Obligations.DecodeOfEncode : Prop :=
  ∀ i : Instr, i.wf = true → decode (encode i) = .ok i

/-- R76, R80: each encoding that decodes is the encoding of the instruction it decodes to, and that instruction is
well-formed. -/
def Obligations.EncodeOfDecode : Prop :=
  ∀ (c : Code) (i : Instr), decode c = .ok i → i.wf = true ∧ encode i = c

/-- R76: a listing of well-formed requests decodes to those requests. -/
def Obligations.ProgramListingRoundTrip : Prop :=
  ∀ rs : List Request, (∀ r ∈ rs, r.wf = true) → decodeProgram (encodeProgram rs) = .ok rs

/-- R76: the listing form of `INIT` and of `FEED`, whatever bytes follow; any other first byte is refused, and no
listing holds a request of 256 bytes or more. -/
def Obligations.ListingFormOfRequests : Prop :=
  (∀ rest : List Byte, decodeListing (0x00 :: rest) = .ok (⟨0, []⟩, rest)) ∧
  (∀ data rest : List Byte, data.length ≤ 255 →
    decodeListing (0x01 :: BitVec.ofNat 8 data.length :: (data ++ rest)) = .ok (⟨1, data⟩, rest)) ∧
  (∀ (first : Byte) (rest : List Byte), first ≠ 0x00 → first ≠ 0x01 →
    decodeListing (first :: rest) = .error (.badOperation first)) ∧
  (∀ (bytes rest : List Byte) (r : Request), decodeListing bytes = .ok (r, rest) → r.data.length ≤ 255)

/-- R71, R80, R82: the selector is the phase code and the marker class; the ten legal selectors name their
transitions and the six others none. -/
def Obligations.SelectorTable : Prop :=
  (∀ (p : Phase) (b : Byte), selector p b = p.code ++ (if b = 0xFF then 1#1 else 0#1)) ∧
  decodeSelector 0b0001 = some .am1Mark ∧ decodeSelector 0b0000 = some .am1Other ∧
  decodeSelector 0b0011 = some .am2Mark ∧ decodeSelector 0b0010 = some .am2Other ∧
  decodeSelector 0b0101 = some .whMark ∧ decodeSelector 0b0100 = some .whData ∧
  decodeSelector 0b0110 = some .wlData ∧ decodeSelector 0b0111 = some .wlFf ∧
  decodeSelector 0b1001 = some .nwhMark ∧ decodeSelector 0b1000 = some .nwhData ∧
  ∀ sel : BitVec 4, 10 ≤ sel.toNat → decodeSelector sel = none

/-- R73: the codes of the five phases; R74: the three others are reserved. -/
def Obligations.PhaseCodes : Prop :=
  Phase.ofCode 0b000 = some .AM1 ∧ Phase.ofCode 0b001 = some .AM2 ∧ Phase.ofCode 0b010 = some .WH ∧
  Phase.ofCode 0b011 = some .WL ∧ Phase.ofCode 0b100 = some .NWH ∧ Phase.ofCode 0b101 = none ∧
  Phase.ofCode 0b110 = none ∧ Phase.ofCode 0b111 = none ∧ ∀ p : Phase, Phase.ofCode p.code = some p

/-- R75, R76, R80: words written out from the encodings decode to the instructions they stand for (a sanity
statement). -/
def Obligations.WrittenWordsDecode : Prop :=
  decode (.listing [0x00]) = .ok .init ∧ decode (.listing [0x01, 0x02, 0xFF, 0x12]) = .ok (.feed [0xFF, 0x12]) ∧
  decode (.selector 0b0110) = .ok .wlData ∧ decode (.selector 0b1001) = .ok .nwhMark

/-- R77, R79: the status codes, the reserved one refused; a result is read back from its bits. -/
def Obligations.ResultContainerRoundTrip : Prop :=
  (∀ r : Result, Result.ofBits r.toBits = some r) ∧
  Status.code .noFrame = 0b00 ∧ Status.code .frame = 0b01 ∧ Status.code .capacityExceeded = 0b10 ∧
  (∀ F room, Result.ofBits ⟨0b11, F, room⟩ = none)

/-- R78: word `j` of a frame stands at bits `127−16j` to `112−16j` of its 128-bit form, payload byte `k` at bits
`127−8k` to `120−8k`, and the form gives the frame back. -/
def Obligations.FrameBitsLayout : Prop :=
  ∀ f : Frame, (∀ j (h : j < 8), (Frame.toBits f).extractLsb' (112 - 16 * j) 16 = f[j]) ∧
    (∀ k, k < 16 → f.payload[k]? = some ((Frame.toBits f).extractLsb' (120 - 8 * k) 8)) ∧
    Frame.ofBits (Frame.toBits f) = f

/-- R55, R141: word assembly is `hi·256 + lo`, and the two bytes are read back. -/
def Obligations.WordAssemblyIsBigEndian : Prop :=
  (∀ hi lo : Byte, (Word.assemble hi lo).toNat = hi.toNat * 256 + lo.toNat ∧
    Word.hiByte (Word.assemble hi lo) = hi ∧ Word.loByte (Word.assemble hi lo) = lo) ∧
  ∀ w : Word, Word.assemble (Word.hiByte w) (Word.loByte w) = w

/-- R70: the 18 bytes of a frame on the wire. -/
def Obligations.WireFormat : Prop :=
  ∀ f : Frame, f.wire.length = 18 ∧ f.wire[0]? = some 0xFF ∧ f.wire[1]? = some 0xFF ∧
    ∀ j (h : j < 8), ∃ b c : Byte, f.wire[2 + 2 * j]? = some b ∧ f.wire[3 + 2 * j]? = some c ∧
      b = f[j].extractLsb' 8 8 ∧ c = f[j].extractLsb' 0 8 ∧ (b ++ c : BitVec 16) = f[j]

/-! ### Consequences the spec draws -/

/-- R143: no emitted word has high byte `0xFF` (in the variant no low byte `0xFF` either), and every other word is
received. -/
def Obligations.UnreceivableWords : Prop :=
  (∀ (resyncOnLow : Bool) (s t : State) (data : List Byte), s.AtBoundary resyncOnLow →
    feedWith resyncOnLow data s = .next t → t.result.status = .frame →
      ∀ j (h : j < 8), t.result.frame[j].toNat < 0xFF00 ∧
        (resyncOnLow = true → t.result.frame[j].extractLsb' 0 8 ≠ 0xFF)) ∧
  (∀ (resyncOnLow : Bool) (w : Word), w.toNat < 0xFF00 → (resyncOnLow = true → w.extractLsb' 0 8 ≠ 0xFF) →
    ∃ t, feedWith resyncOnLow (Frame.wire (Vector.replicate 8 w)) State.reset = .next t ∧
      t.result.status = .frame ∧ t.result.frame = Vector.replicate 8 w)

/-- R144: an even run of marker bytes before a byte that is none is a frame's marker, and that byte is the high byte
of word 0; an odd run is dropped with that byte. -/
def Obligations.MarkerRunBeforeAFrame : Prop :=
  ∀ (resyncOnLow : Bool) (s : State) (k : Nat) (b : Byte), s.AtBoundary resyncOnLow → s.phase = .AM1 → 1 ≤ k →
    b ≠ 0xFF →
      ∃ t, feedChunks resyncOnLow (singleBytes (List.replicate k 0xFF ++ [b])) s = some ([], t) ∧
        (k % 2 = 0 → t.phase = .WL ∧ t.count = 0 ∧ t.hi = b ∧ t.buf = [0xFF, 0xFF, b]) ∧
        (k % 2 = 1 → t.phase = .AM1 ∧ t.buf = [])

/-- R85: `SEND` delivers its frame from an empty buffer and is rejected otherwise; the assembler refuses a word that
cannot be received. -/
def Obligations.SendDeliversItsFrame : Prop :=
  ∀ f : Frame,
    ((∀ w ∈ f.toList, Word.hiByte w ≠ 0xFF) →
      (AsmLine.send f).expand = .ok (.feed (Frame.wire f)) ∧
      ∀ s : State, s.AtBoundary Config.resyncOnLow →
        ∃ t, exec (.feed (Frame.wire f)) s = .next t ∧
          (s.phase = .AM1 → t.result.status = .frame ∧ t.result.frame = f) ∧
          (s.phase ≠ .AM1 → t.result.status = .capacityExceeded)) ∧
    ((∃ w ∈ f.toList, Word.hiByte w = 0xFF) → (AsmLine.send f).expand = .error .unreceivableWord)

/-- R85: `NOP` and `SKIP k` in phase `AM1` leave the session as it is. -/
def Obligations.NopAndSkipLeaveTheSession : Prop :=
  (AsmLine.nop).expand = .ok (.feed []) ∧
  ∀ (s : State) (k : Nat), s.AtBoundary Config.resyncOnLow → s.phase = .AM1 → k ≤ 18 →
    ∃ i, (AsmLine.skip k).expand = .ok i ∧
      exec i s = .next { s with result := ⟨.noFrame, Vector.replicate 8 0x0000, 18⟩ }

/-! ### Host and sessions -/

/-- R172, R181, R183: an I/O failure of the Byte Source is passed on with the block untouched; no data, zero bytes and
an empty `FEED` are the same. -/
def Obligations.ByteSourceAnswers : Prop :=
  (∀ (h : HostLoop) (code : Nat), hostTurn (.ioFailure code) h = .failed code h) ∧
  (∀ h : HostLoop, hostTurn .noData h = hostTurn (.bytes []) h) ∧
  (∀ h : HostLoop, h.session.AtBoundary Config.resyncOnLow →
    hostTurn .noData h = .next { h with session := { h.session with
      result := ⟨.noFrame, Vector.replicate 8 0x0000, BitVec.ofNat 5 (18 - h.session.buf.length)⟩ } })

/-- R182, R183: a turn of the host loop issues one `FEED` and delivers the frame of its result, once and in order. -/
def Obligations.HostDeliversEachFrameOnce : Prop :=
  ∀ (h : HostLoop) (data : List Byte), h.session.act = .idle →
    ∃ t, exec (.feed data) h.session = .next t ∧
      hostTurn (.bytes data) h = .next ⟨t, h.delivered ++ (if t.result.status = .frame then [t.result.frame] else [])⟩

/-- R183, R205: a host that splits what it has read by the room of the last result never meets `CAPACITY_EXCEEDED`, and
delivers the frames that the bytes fed one at a time deliver. -/
def Obligations.SplittingHostNeverOverfills : Prop :=
  ∀ (h : HostLoop) (data : List Byte), h.session.AtBoundary Config.resyncOnLow →
    ∃ t t' fs, issueWithinRoom data.length data h = .next ⟨t, h.delivered ++ fs⟩ ∧
      t.AtBoundary Config.resyncOnLow ∧ (data ≠ [] → t.result.status ≠ .capacityExceeded) ∧
      feedChunks Config.resyncOnLow (singleBytes data) h.session = some (fs, t') ∧ t' = { t with result := t'.result }

/-- R184: an operation on one session is that session's alone. -/
def Obligations.SessionsAreIndependent : Prop :=
  ∀ (ss ss' : List State) (k : Nat) (i : Instr), sessionsExec k i ss = .next ss' →
    ss'.length = ss.length ∧ (∀ j, j ≠ k → ss'[j]? = ss[j]?) ∧
    ∃ s t, ss[k]? = some s ∧ ss'[k]? = some t ∧ exec i s = .next t
end

