-- ==== Sys2Proof/Laws/State.lean ====
section
/-! SUPPORT. One lemma per field per update of State. -/

namespace Sys2Proof.Machine

/-! ### `setPhase` -/

section
variable (s : State) (p : Phase)
@[simp] theorem State.setPhase_phase : (s.setPhase p).phase = p := rfl
@[simp] theorem State.setPhase_count : (s.setPhase p).count = s.count := rfl
@[simp] theorem State.setPhase_hi : (s.setPhase p).hi = s.hi := rfl
@[simp] theorem State.setPhase_words : (s.setPhase p).words = s.words := rfl
@[simp] theorem State.setPhase_buf : (s.setPhase p).buf = s.buf := rfl
@[simp] theorem State.setPhase_scan : (s.setPhase p).scan = s.scan := rfl
@[simp] theorem State.setPhase_act : (s.setPhase p).act = s.act := rfl
@[simp] theorem State.setPhase_result : (s.setPhase p).result = s.result := rfl
@[simp] theorem State.setPhase_requests : (s.setPhase p).requests = s.requests := rfl
end

/-! ### `setCount` -/

section
variable (s : State) (c : BitVec 3)
@[simp] theorem State.setCount_phase : (s.setCount c).phase = s.phase := rfl
@[simp] theorem State.setCount_count : (s.setCount c).count = c := rfl
@[simp] theorem State.setCount_hi : (s.setCount c).hi = s.hi := rfl
@[simp] theorem State.setCount_words : (s.setCount c).words = s.words := rfl
@[simp] theorem State.setCount_buf : (s.setCount c).buf = s.buf := rfl
@[simp] theorem State.setCount_scan : (s.setCount c).scan = s.scan := rfl
@[simp] theorem State.setCount_act : (s.setCount c).act = s.act := rfl
@[simp] theorem State.setCount_result : (s.setCount c).result = s.result := rfl
@[simp] theorem State.setCount_requests : (s.setCount c).requests = s.requests := rfl
end

/-! ### `setHi` -/

section
variable (s : State) (b : Byte)
@[simp] theorem State.setHi_phase : (s.setHi b).phase = s.phase := rfl
@[simp] theorem State.setHi_count : (s.setHi b).count = s.count := rfl
@[simp] theorem State.setHi_hi : (s.setHi b).hi = b := rfl
@[simp] theorem State.setHi_words : (s.setHi b).words = s.words := rfl
@[simp] theorem State.setHi_buf : (s.setHi b).buf = s.buf := rfl
@[simp] theorem State.setHi_scan : (s.setHi b).scan = s.scan := rfl
@[simp] theorem State.setHi_act : (s.setHi b).act = s.act := rfl
@[simp] theorem State.setHi_result : (s.setHi b).result = s.result := rfl
@[simp] theorem State.setHi_requests : (s.setHi b).requests = s.requests := rfl
end

/-! ### `setWords` -/

section
variable (s : State) (ws : Vector Word Config.nwords)
@[simp] theorem State.setWords_phase : (s.setWords ws).phase = s.phase := rfl
@[simp] theorem State.setWords_count : (s.setWords ws).count = s.count := rfl
@[simp] theorem State.setWords_hi : (s.setWords ws).hi = s.hi := rfl
@[simp] theorem State.setWords_words : (s.setWords ws).words = ws := rfl
@[simp] theorem State.setWords_buf : (s.setWords ws).buf = s.buf := rfl
@[simp] theorem State.setWords_scan : (s.setWords ws).scan = s.scan := rfl
@[simp] theorem State.setWords_act : (s.setWords ws).act = s.act := rfl
@[simp] theorem State.setWords_result : (s.setWords ws).result = s.result := rfl
@[simp] theorem State.setWords_requests : (s.setWords ws).requests = s.requests := rfl
end

/-! ### `setBuf` -/

section
variable (s : State) (bytes : List Byte)
@[simp] theorem State.setBuf_phase : (s.setBuf bytes).phase = s.phase := rfl
@[simp] theorem State.setBuf_count : (s.setBuf bytes).count = s.count := rfl
@[simp] theorem State.setBuf_hi : (s.setBuf bytes).hi = s.hi := rfl
@[simp] theorem State.setBuf_words : (s.setBuf bytes).words = s.words := rfl
@[simp] theorem State.setBuf_buf : (s.setBuf bytes).buf = bytes := rfl
@[simp] theorem State.setBuf_scan : (s.setBuf bytes).scan = s.scan := rfl
@[simp] theorem State.setBuf_act : (s.setBuf bytes).act = s.act := rfl
@[simp] theorem State.setBuf_result : (s.setBuf bytes).result = s.result := rfl
@[simp] theorem State.setBuf_requests : (s.setBuf bytes).requests = s.requests := rfl
end

/-! ### `setScan` -/

section
variable (s : State) (k : BitVec 5)
@[simp] theorem State.setScan_phase : (s.setScan k).phase = s.phase := rfl
@[simp] theorem State.setScan_count : (s.setScan k).count = s.count := rfl
@[simp] theorem State.setScan_hi : (s.setScan k).hi = s.hi := rfl
@[simp] theorem State.setScan_words : (s.setScan k).words = s.words := rfl
@[simp] theorem State.setScan_buf : (s.setScan k).buf = s.buf := rfl
@[simp] theorem State.setScan_scan : (s.setScan k).scan = k := rfl
@[simp] theorem State.setScan_act : (s.setScan k).act = s.act := rfl
@[simp] theorem State.setScan_result : (s.setScan k).result = s.result := rfl
@[simp] theorem State.setScan_requests : (s.setScan k).requests = s.requests := rfl
end

/-! ### `setAct` -/

section
variable (s : State) (a : Activity)
@[simp] theorem State.setAct_phase : (s.setAct a).phase = s.phase := rfl
@[simp] theorem State.setAct_count : (s.setAct a).count = s.count := rfl
@[simp] theorem State.setAct_hi : (s.setAct a).hi = s.hi := rfl
@[simp] theorem State.setAct_words : (s.setAct a).words = s.words := rfl
@[simp] theorem State.setAct_buf : (s.setAct a).buf = s.buf := rfl
@[simp] theorem State.setAct_scan : (s.setAct a).scan = s.scan := rfl
@[simp] theorem State.setAct_act : (s.setAct a).act = a := rfl
@[simp] theorem State.setAct_result : (s.setAct a).result = s.result := rfl
@[simp] theorem State.setAct_requests : (s.setAct a).requests = s.requests := rfl
end

/-! ### `setResult` -/

section
variable (s : State) (r : Result)
@[simp] theorem State.setResult_phase : (s.setResult r).phase = s.phase := rfl
@[simp] theorem State.setResult_count : (s.setResult r).count = s.count := rfl
@[simp] theorem State.setResult_hi : (s.setResult r).hi = s.hi := rfl
@[simp] theorem State.setResult_words : (s.setResult r).words = s.words := rfl
@[simp] theorem State.setResult_buf : (s.setResult r).buf = s.buf := rfl
@[simp] theorem State.setResult_scan : (s.setResult r).scan = s.scan := rfl
@[simp] theorem State.setResult_act : (s.setResult r).act = s.act := rfl
@[simp] theorem State.setResult_result : (s.setResult r).result = r := rfl
@[simp] theorem State.setResult_requests : (s.setResult r).requests = s.requests := rfl
end

/-! ### `setRequests` -/

section
variable (s : State) (rs : List Request)
@[simp] theorem State.setRequests_phase : (s.setRequests rs).phase = s.phase := rfl
@[simp] theorem State.setRequests_count : (s.setRequests rs).count = s.count := rfl
@[simp] theorem State.setRequests_hi : (s.setRequests rs).hi = s.hi := rfl
@[simp] theorem State.setRequests_words : (s.setRequests rs).words = s.words := rfl
@[simp] theorem State.setRequests_buf : (s.setRequests rs).buf = s.buf := rfl
@[simp] theorem State.setRequests_scan : (s.setRequests rs).scan = s.scan := rfl
@[simp] theorem State.setRequests_act : (s.setRequests rs).act = s.act := rfl
@[simp] theorem State.setRequests_result : (s.setRequests rs).result = s.result := rfl
@[simp] theorem State.setRequests_requests : (s.setRequests rs).requests = rs := rfl
end

end Sys2Proof.Machine
end

