-- ==== Sys2Proof/Laws/Operands.lean ====
section
/-! SUPPORT. What the operand forms do: word assembly, the bytes of words and frames, and when a transition runs. -/

namespace Sys2Proof

theorem isMarker_eq_true_iff (b : Byte) : isMarker b = true ↔ b = 0xFF := by simp [isMarker]

theorem isMarker_eq_false_iff (b : Byte) : isMarker b = false ↔ b ≠ 0xFF := by simp [isMarker]

/-- Different phases or marker classes have different selectors. -/
theorem selectorOf_inj (p q : Phase) (m n : Bool) : selectorOf p m = selectorOf q n ↔ p = q ∧ m = n := by
  cases p <;> cases q <;> cases m <;> cases n <;> decide

theorem wordsToBytes_append (xs ys : List Word) : wordsToBytes (xs ++ ys) = wordsToBytes xs ++ wordsToBytes ys := by
  simp [wordsToBytes]

theorem wordsToBytes_length (ws : List Word) : (wordsToBytes ws).length = 2 * ws.length := by
  induction ws with
  | nil => rfl
  | cons w ws ih => simp only [wordsToBytes, List.flatMap_cons, List.length_append, List.length_cons] at ih ⊢; simp at ih ⊢; omega

/-- An assembled word gives its two bytes back, high byte first. -/
theorem wordsToBytes_assemble (hi lo : Byte) : wordsToBytes [Word.assemble hi lo] = [hi, lo] := by
  have h1 : Word.hiByte (Word.assemble hi lo) = hi := by
    apply BitVec.eq_of_getLsbD_eq
    intro i h
    simp only [Word.hiByte, Word.assemble, BitVec.getLsbD_extractLsb', BitVec.getLsbD_append]
    simp [h]
  have h2 : Word.loByte (Word.assemble hi lo) = lo := by
    apply BitVec.eq_of_getLsbD_eq
    intro i h
    simp only [Word.loByte, Word.assemble, BitVec.getLsbD_extractLsb', BitVec.getLsbD_append]
    simp [h]
  simp [wordsToBytes, h1, h2]

theorem Frame.wire_length (f : Frame) : (Frame.wire f).length = 18 := by
  simp [Frame.wire, Frame.payload, wordsToBytes_length, Config.nwords]

end Sys2Proof

namespace Sys2Proof.Machine

/-- When a transition runs, and what it then answers: the whole of `runTransition`. -/
theorem runTransition_eq_next_iff (p : Phase) (m : Bool) (body : Byte → State → State) (s t : State) :
    runTransition p m body s = .next t ↔
      ∃ w b, s.act = .scanning w ∧ s.examined w = some b ∧ s.phase = p ∧ isMarker b = m ∧ t = body b s := by
  unfold runTransition
  cases ha : s.act with
  | idle => simp
  | uninitialised => simp
  | scanning w =>
    cases he : s.examined w with
    | none => simp [he]
    | some b =>
      simp only [Activity.scanning.injEq, he]
      by_cases hs : selector s.phase b = selectorOf p m
      · have h := (selectorOf_inj _ _ _ _).mp hs
        rw [if_pos hs]
        constructor
        · intro ht
          cases ht
          exact ⟨w, b, rfl, he, h.1, h.2, rfl⟩
        · rintro ⟨w', b', rfl, he', -, -, rfl⟩
          rw [he] at he'
          cases he'
          rfl
      · rw [if_neg hs]
        constructor
        · intro ht
          cases ht
        · rintro ⟨w', b', rfl, he', hp, hm, -⟩
          rw [he] at he'
          cases he'
          exact absurd ((selectorOf_inj _ _ _ _).mpr ⟨hp, hm⟩) hs

/-- A scan examines a byte exactly when none is pending and the index is inside the buffer. -/
theorem State.examined_eq_some_iff (s : State) (w : Scan) (b : Byte) :
    s.examined w = some b ↔ w.res = none ∧ s.buf[w.i]? = some b := by
  unfold State.examined State.bufAt
  cases w.res <;> simp

end Sys2Proof.Machine
end

