-- ==== Sys2Proof/Laws/PerInstr.lean ====
section
/-! SUPPORT. One statement about every instruction as syntax: which of the two encoding spaces it is encoded in. A
session operation has a listing that begins with its own operation byte (30_encoding.md R76); a transition has one of
the ten legal selectors (R80). -/

namespace Sys2Proof.Laws.CodeSpace

def Statement (i : Instr) : Prop :=
  match encode i with
  | .listing bytes => ∃ r, i.request = some r ∧ bytes.head? = some (BitVec.setWidth 8 r.op)
  | .selector sel => i.request = none ∧ sel.toNat < 10

theorem init : Statement .init := ⟨⟨0, []⟩, rfl, by decide⟩
theorem feed (data : List Byte) : Statement (.feed data) := ⟨⟨1, data⟩, rfl, rfl⟩
theorem am1Other : Statement .am1Other := ⟨rfl, by decide⟩
theorem am1Mark : Statement .am1Mark := ⟨rfl, by decide⟩
theorem am2Other : Statement .am2Other := ⟨rfl, by decide⟩
theorem am2Mark : Statement .am2Mark := ⟨rfl, by decide⟩
theorem whData : Statement .whData := ⟨rfl, by decide⟩
theorem whMark : Statement .whMark := ⟨rfl, by decide⟩
theorem wlData : Statement .wlData := ⟨rfl, by decide⟩
theorem wlFf : Statement .wlFf := ⟨rfl, by decide⟩
theorem nwhData : Statement .nwhData := ⟨rfl, by decide⟩
theorem nwhMark : Statement .nwhMark := ⟨rfl, by decide⟩

end Sys2Proof.Laws.CodeSpace
end

