-- ==== Sys2Proof/Laws/Transitions.lean ====
section
/-! SUPPORT. What a transition of the Frame Decoder can do to a state inside a scan. -/

namespace Sys2Proof.Machine

theorem State.updateScan_scanning {s : State} {w : Scan} (ha : s.act = .scanning w) (f : Scan → Scan) :
    s.updateScan f = s.setAct (.scanning (f w)) := by simp [State.updateScan, ha]

/-- The state after a word is stored below the eighth (41_frame_decoder.md R137). -/
theorem wlDataBody_of_count_lt (b : Byte) (s : State) (h : s.count.toNat < 7) :
    wlDataBody b s = { s with
      words := s.words.set s.count.toNat (Word.assemble s.hi b) s.count.isLt
      count := s.count + 1
      phase := .NWH } := by
  have h' : ¬(s.count.toNat + 1 = Config.nwords) := by simp only [Config.nwords]; omega
  simp only [wlDataBody, h', if_false, storeWord]
  rfl

/-- The state after the eighth word is stored (41_frame_decoder.md R137). -/
theorem wlDataBody_of_count_eq {s : State} {w : Scan} (ha : s.act = .scanning w) (b : Byte) (h : s.count = 7) :
    wlDataBody b s = { s with
      words := s.words.set 7 (Word.assemble s.hi b)
      count := 0
      phase := .AM1
      act := .scanning { w with disc := w.i + 1, res := some (s.words.set 7 (Word.assemble s.hi b)) } } := by
  obtain ⟨phase, count, hi, words, buf, scan, act, result, requests⟩ := s
  dsimp only at ha h
  subst ha h
  rfl

/-- Every effect a transition can have: what each of the ten selected bodies makes of the state, in a scan with
working values `w`. -/
theorem stepByte_cases (r : Bool) {s : State} {w : Scan} (ha : s.act = .scanning w) (b : Byte) :
    (s.phase = .AM1 ∧ b = 0xFF ∧ stepByte r b s = { s with phase := .AM2 }) ∨
    (s.phase = .AM1 ∧ b ≠ 0xFF ∧ stepByte r b s = { s with act := .scanning { w with disc := w.i + 1 } }) ∨
    (s.phase = .AM2 ∧ b = 0xFF ∧ stepByte r b s = { s with phase := .WH, count := 0 }) ∨
    (s.phase = .AM2 ∧ b ≠ 0xFF ∧
      stepByte r b s = { s with phase := .AM1, act := .scanning { w with disc := w.i + 1 } }) ∨
    ((s.phase = .WH ∨ s.phase = .NWH ∨ s.phase = .WL ∧ r = true) ∧ b = 0xFF ∧
      stepByte r b s = { s with phase := .AM2, act := .scanning { w with disc := w.i } }) ∨
    ((s.phase = .WH ∨ s.phase = .NWH) ∧ b ≠ 0xFF ∧ stepByte r b s = { s with hi := b, phase := .WL }) ∨
    (s.phase = .WL ∧ (b = 0xFF → r = false) ∧ s.count.toNat < 7 ∧ stepByte r b s = { s with
      words := s.words.set s.count.toNat (Word.assemble s.hi b) s.count.isLt
      count := s.count + 1
      phase := .NWH }) ∨
    (s.phase = .WL ∧ (b = 0xFF → r = false) ∧ s.count = 7 ∧ stepByte r b s = { s with
      words := s.words.set 7 (Word.assemble s.hi b)
      count := 0
      phase := .AM1
      act := .scanning { w with disc := w.i + 1, res := some (s.words.set 7 (Word.assemble s.hi b)) } }) := by
  have hlow : s.phase = .WL → (b = 0xFF → r = false) → stepByte r b s = wlDataBody b s := by
    intro hp hr
    by_cases hb : b = 0xFF
    · simp [stepByte, hp, (isMarker_eq_true_iff b).mpr hb, wlFfBody, hr hb]
    · simp [stepByte, hp, (isMarker_eq_false_iff b).mpr hb]
  have hword : s.phase = .WL → (b = 0xFF → r = false) →
      (s.count.toNat < 7 ∧ stepByte r b s = { s with
        words := s.words.set s.count.toNat (Word.assemble s.hi b) s.count.isLt
        count := s.count + 1
        phase := .NWH }) ∨
      (s.count = 7 ∧ stepByte r b s = { s with
        words := s.words.set 7 (Word.assemble s.hi b)
        count := 0
        phase := .AM1
        act := .scanning { w with disc := w.i + 1, res := some (s.words.set 7 (Word.assemble s.hi b)) } }) := by
    intro hp hr
    rw [hlow hp hr]
    by_cases hc : s.count.toNat < 7
    · exact .inl ⟨hc, wlDataBody_of_count_lt b s hc⟩
    · have h7 : s.count = 7 := by
        apply BitVec.eq_of_toNat_eq
        have := s.count.isLt
        simp
        omega
      exact .inr ⟨h7, wlDataBody_of_count_eq ha b h7⟩
  have hresync : resynchronize s = { s with phase := .AM2, act := .scanning { w with disc := w.i } } := by
    simp only [resynchronize, State.discardBefore, State.updateScan_scanning ha]
    rfl
  have hkeep : ∀ p, s.setPhase p = { s with phase := p } := fun _ => rfl
  have hthrough : s.discardThrough = { s with act := .scanning { w with disc := w.i + 1 } } := by
    simp only [State.discardThrough, State.updateScan_scanning ha]
    rfl
  by_cases hb : b = 0xFF
  · have hm := (isMarker_eq_true_iff b).mpr hb
    cases hp : s.phase with
    | AM1 => exact .inl ⟨rfl, hb, by simp only [stepByte, hp, hm]; rfl⟩
    | AM2 => exact .inr (.inr (.inl ⟨rfl, hb, by simp only [stepByte, hp, hm]; rfl⟩))
    | WH =>
      exact .inr (.inr (.inr (.inr (.inl ⟨.inl rfl, hb, by simp only [stepByte, hp, hm, whMarkBody, hresync]⟩))))
    | NWH =>
      exact .inr (.inr (.inr (.inr (.inl ⟨.inr (.inl rfl), hb, by
        simp only [stepByte, hp, hm, nwhMarkBody, hresync]⟩))))
    | WL =>
      cases hr : r with
      | true =>
        exact .inr (.inr (.inr (.inr (.inl ⟨.inr (.inr ⟨rfl, rfl⟩), hb, by
          simp only [stepByte, hp, hm, wlFfBody, if_true, hresync]⟩))))
      | false =>
        rcases hword hp (fun _ => hr) with ⟨h1, h2⟩ | ⟨h1, h2⟩
        · exact .inr (.inr (.inr (.inr (.inr (.inr (.inl ⟨rfl, fun _ => rfl, h1, by rw [← hr]; exact h2⟩))))))
        · exact .inr (.inr (.inr (.inr (.inr (.inr (.inr ⟨rfl, fun _ => rfl, h1, by rw [← hr]; exact h2⟩))))))
  · have hm := (isMarker_eq_false_iff b).mpr hb
    cases hp : s.phase with
    | AM1 => exact .inr (.inl ⟨rfl, hb, by simp only [stepByte, hp, hm, am1OtherBody, hthrough]⟩)
    | AM2 => exact .inr (.inr (.inr (.inl ⟨rfl, hb, by
        simp only [stepByte, hp, hm, am2OtherBody, hthrough]; rfl⟩)))
    | WH => exact .inr (.inr (.inr (.inr (.inr (.inl ⟨.inl rfl, hb, by simp only [stepByte, hp, hm]; rfl⟩)))))
    | NWH => exact .inr (.inr (.inr (.inr (.inr (.inl ⟨.inr rfl, hb, by simp only [stepByte, hp, hm]; rfl⟩)))))
    | WL =>
      rcases hword hp (fun h => absurd h hb) with ⟨h1, h2⟩ | ⟨h1, h2⟩
      · exact .inr (.inr (.inr (.inr (.inr (.inr (.inl ⟨rfl, fun h => absurd h hb, h1, h2⟩))))))
      · exact .inr (.inr (.inr (.inr (.inr (.inr (.inr ⟨rfl, fun h => absurd h hb, h1, h2⟩))))))

/-- What no transition writes: the buffer, the cursor, the result, the requests and the index of the scan
(40_session.md R106). -/
theorem stepByte_frame (r : Bool) {s : State} {w : Scan} (ha : s.act = .scanning w) (b : Byte) :
    (stepByte r b s).buf = s.buf ∧ (stepByte r b s).scan = s.scan ∧ (stepByte r b s).result = s.result ∧
      (stepByte r b s).requests = s.requests ∧
      ∃ w', (stepByte r b s).act = .scanning w' ∧ w'.i = w.i := by
  rcases stepByte_cases r ha b with ⟨_, _, h⟩ | ⟨_, _, h⟩ | ⟨_, _, h⟩ | ⟨_, _, h⟩ | ⟨_, _, h⟩ | ⟨_, _, h⟩ |
    ⟨_, _, _, h⟩ | ⟨_, _, _, h⟩ <;> rw [h] <;> simp [ha]

end Sys2Proof.Machine
end

