-- ==== Sys2Proof/Laws/Session.lean ====
section
/-! SUPPORT. What the session operations can do: a turn of the scan loop, its end, and the cases of `FEED`. -/

namespace Sys2Proof.Machine

/-- A turn of the scan loop: it examines a byte, applies the selected transition and moves the index on. -/
theorem scanTurn_eq_some_iff (r : Bool) (s t : State) :
    scanTurn r s = some t ↔
      ∃ w b, s.act = .scanning w ∧ s.examined w = some b ∧ t = (stepByte r b s).advanceIndex := by
  unfold scanTurn
  cases ha : s.act with
  | idle => simp
  | uninitialised => simp
  | scanning w =>
    cases he : s.examined w with
    | none => simp [he]
    | some b => simp [he, eq_comm]

/-- What a turn of the scan loop leaves alone. -/
theorem scanTurn_frame {r : Bool} {s t : State} (h : scanTurn r s = some t) :
    t.buf = s.buf ∧ t.scan = s.scan ∧ t.result = s.result ∧ t.requests = s.requests ∧
      ∃ w w', s.act = .scanning w ∧ t.act = .scanning w' ∧ w'.i = w.i + 1 ∧ w.i < s.buf.length ∧ w.res = none := by
  obtain ⟨w, b, ha, he, rfl⟩ := (scanTurn_eq_some_iff r s t).mp h
  obtain ⟨h1, h2, h3, h4, w', h5, h6⟩ := stepByte_frame r ha b
  obtain ⟨hr, hb⟩ := (State.examined_eq_some_iff s w b).mp he
  have hadv : (stepByte r b s).advanceIndex = (stepByte r b s).setAct (.scanning { w' with i := w'.i + 1 }) := by
    simp only [State.advanceIndex, h5]
  rw [hadv]
  exact ⟨h1, h2, h3, h4, w, _, ha, rfl, by simp [h6], (List.getElem?_eq_some_iff.mp hb).1, hr⟩

/-- A property of the state that every turn keeps holds after the scan loop. -/
theorem scanLoop_induction {r : Bool} {P : State → Prop} (hturn : ∀ s t, P s → scanTurn r s = some t → P t) :
    ∀ fuel s, P s → P (scanLoop r fuel s)
  | 0, _, hs => hs
  | fuel + 1, s, hs => by
    unfold scanLoop
    cases h : scanTurn r s with
    | none => exact hs
    | some t => exact scanLoop_induction hturn fuel t (hturn s t hs h)

/-- With fuel for every unexamined byte the scan loop runs to its end. -/
theorem scanLoop_done (r : Bool) :
    ∀ fuel (s : State) (w : Scan), s.act = .scanning w → s.buf.length ≤ fuel + w.i →
      scanTurn r (scanLoop r fuel s) = none
  | 0, s, w, ha, hf => by
    cases h : scanTurn r s with
    | none => exact h
    | some t =>
      obtain ⟨-, -, -, -, w1, -, ha1, -, -, hi, -⟩ := scanTurn_frame h
      rw [ha] at ha1
      cases ha1
      omega
  | fuel + 1, s, w, ha, hf => by
    unfold scanLoop
    cases h : scanTurn r s with
    | none => exact h
    | some t =>
      obtain ⟨hb, -, -, -, w1, w2, ha1, ha2, hi, -, -⟩ := scanTurn_frame h
      rw [ha] at ha1
      cases ha1
      exact scanLoop_done r fuel t w2 ha2 (by rw [hb]; omega)

/-- A scan that examines no more bytes has a frame pending or the whole buffer behind it. -/
theorem scanTurn_eq_none_of_scanning {r : Bool} {s : State} {w : Scan} (ha : s.act = .scanning w) :
    scanTurn r s = none ↔ w.res ≠ none ∨ s.buf.length ≤ w.i := by
  simp only [scanTurn, ha, State.examined, State.bufAt]
  cases hr : w.res with
  | some f => simp
  | none =>
    cases hb : s.buf[w.i]? with
    | none => simpa using hb
    | some b =>
      have := (List.getElem?_eq_some_iff.mp hb).1
      simp
      omega

/-- The scan loop keeps the state inside a scan, with the buffer, the cursor, the result and the requests it had. -/
theorem scanLoop_frame (r : Bool) (fuel : Nat) {s : State} {w : Scan} (ha : s.act = .scanning w) :
    (scanLoop r fuel s).buf = s.buf ∧ (scanLoop r fuel s).scan = s.scan ∧ (scanLoop r fuel s).result = s.result ∧
      (scanLoop r fuel s).requests = s.requests ∧ ∃ w', (scanLoop r fuel s).act = .scanning w' := by
  refine scanLoop_induction
    (P := fun t => t.buf = s.buf ∧ t.scan = s.scan ∧ t.result = s.result ∧ t.requests = s.requests ∧
      ∃ w', t.act = .scanning w') ?_ fuel s ⟨rfl, rfl, rfl, rfl, w, ha⟩
  rintro u t ⟨h1, h2, h3, h4, -⟩ ht
  obtain ⟨k1, k2, k3, k4, -, w', -, k5, -⟩ := scanTurn_frame ht
  exact ⟨k1.trans h1, k2.trans h2, k3.trans h3, k4.trans h4, w', k5⟩

/-- The fields after the end of a scan (40_session.md R108, R109). -/
theorem endScan_scanning {s : State} {w : Scan} (ha : s.act = .scanning w) :
    endScan s = { s with
      scan := BitVec.ofNat 5 w.i - BitVec.ofNat 5 w.disc
      buf := s.buf.drop w.disc
      act := .idle
      result := match w.res with
        | none => ⟨.noFrame, zeroFrame, BitVec.ofNat 5 (18 - (s.buf.drop w.disc).length)⟩
        | some f => ⟨.frame, f, BitVec.ofNat 5 (18 - (s.buf.drop w.disc).length)⟩ } := by
  simp only [endScan, ha, closeFeed, State.returnPending]
  cases w.res <;> rfl

/-- The two cases of `FEED`: rejected whole, or the scan of the appended bytes run to its end. -/
theorem feed_cases (r : Bool) (data : List Byte) (s : State) :
    (s.buf.length + data.length > 18 ∧ feed r data s = s.returnCapacityExceeded) ∨
    (s.buf.length + data.length ≤ 18 ∧ ∃ u w, feed r data s = endScan u ∧
      u = scanLoop r (s.buf.length + data.length) (openFeed data s) ∧ u.act = .scanning w ∧
      u.buf = s.buf ++ data ∧ u.scan = s.scan ∧ u.result = s.result ∧ u.requests = s.requests ∧
      (w.res ≠ none ∨ u.buf.length ≤ w.i)) := by
  unfold feed
  by_cases h : s.buf.length + data.length > Config.cap
  · exact .inl ⟨h, by simp [h]⟩
  · have ha : (openFeed data s).act = .scanning ⟨s.scan.toNat, 0, none⟩ := rfl
    obtain ⟨h1, h2, h3, h4, w, h5⟩ := scanLoop_frame r (s.buf.length + data.length) ha
    refine .inr ⟨by simpa using h, _, w, by simp [h], rfl, h5, h1, h2, h3, h4, ?_⟩
    rw [← scanTurn_eq_none_of_scanning (r := r) h5]
    refine scanLoop_done r _ _ _ ha ?_
    simp [openFeed, State.bufAppend]

/-- `FEED` answers a next state exactly in an idle session. -/
theorem feedWith_eq_next_iff (r : Bool) (data : List Byte) (s t : State) :
    feedWith r data s = .next t ↔ s.act = .idle ∧ t = feed r data s := by
  unfold feedWith
  cases s.act <;> simp [eq_comm]

end Sys2Proof.Machine
end

