-- ==== Sys2Proof/Laws/Step.lean ====
section
/-! SUPPORT. What one step can do. -/

namespace Sys2Proof.Machine

/-- The dispatch of a selected transition is the step of the scan loop: the decoder's table and the transition
function agree on every phase and byte (30_encoding.md R80, 40_session.md R106). -/
theorem stepTransition_eq {s : State} {w : Scan} {b : Byte} (ha : s.act = .scanning w) (he : s.examined w = some b) :
    stepTransition b s = .next (stepByte Config.resyncOnLow b s).advanceIndex := by
  have hrun : ∀ (body : Byte → State → State), runTransition s.phase (isMarker b) body s = .next (body b s) :=
    fun body => (runTransition_eq_next_iff _ _ _ _ _).mpr ⟨w, b, ha, he, rfl, rfl, rfl⟩
  cases hp : s.phase <;> cases hm : isMarker b <;> rw [hp, hm] at hrun <;>
    simp only [stepTransition, selector, hp, hm] <;>
    simp [selectorOf, Phase.code, decodeSelector, exec, execAm1Other, execAm1Mark, execAm2Other, execAm2Mark,
      execWhData, execWhMark, execWlData, execWlFf, execNwhData, execNwhMark, hrun, stepByte, hp, hm]

/-- Inside a scan a step is a turn of the scan loop, or the end of the scan. -/
theorem step_scanning {s : State} {w : Scan} (ha : s.act = .scanning w) :
    step s = .next ((scanTurn Config.resyncOnLow s).getD (endScan s)) := by
  simp only [step, ha, scanTurn]
  cases he : s.examined w with
  | none => rfl
  | some b => exact stepTransition_eq ha he

/-- Outside a scan a step is the host's next request, or nothing. -/
theorem step_not_scanning {s : State} (ha : ∀ w, s.act ≠ .scanning w) : step s = stepRequest s := by
  unfold step
  cases h : s.act with
  | idle => rfl
  | uninitialised => rfl
  | scanning w => exact absurd h (ha w)

end Sys2Proof.Machine
end

