-- ==== Sys2Proof/Tests/Slice0.lean ====
section
/-! SUPPORT. The model's own tests: the smoke test of WellFormed, one written word per constructor, vectors of
95_test_vectors.md that are one operation each, and a witness for the hypotheses of every statement. -/

namespace Sys2Proof.Tests

open Sys2Proof Sys2Proof.Machine

/-! ### Helpers -/

/-- The state an outcome leads to. -/
def nextOf (o : Host.Outcome State Fault Refusal) : Option State :=
  match o with
  | .next t => some t
  | .fault _ => none
  | .refused _ => none

/-- The name of a refusal. -/
def refusalOf (o : Host.Outcome State Fault Refusal) : Option Refusal :=
  match o with
  | .next _ => none
  | .fault _ => none
  | .refused r => some r

/-- A session between operations with a given candidate frame. -/
def session (p : Phase) (count : BitVec 3) (hi : Byte) (ws : Vector Word 8) (buf : List Byte) : State :=
  { State.reset with
    phase := p, count := count, hi := hi, words := ws, buf := buf, scan := BitVec.ofNat 5 buf.length,
    result := ⟨.noFrame, zeroFrame, BitVec.ofNat 5 (18 - buf.length)⟩ }

/-- A scan in progress that examines the last byte of the buffer next. -/
def scanning (p : Phase) (count : BitVec 3) (hi : Byte) (buf : List Byte) : State :=
  { State.reset with
    phase := p, count := count, hi := hi, buf := buf, act := .scanning ⟨buf.length - 1, 0, none⟩ }

def words1to8 : Frame := #v[1, 2, 3, 4, 5, 6, 7, 8]

/-- The 16 bytes `PAY` of 95_test_vectors.md. -/
def pay : List Byte := [0, 1, 0, 2, 0, 3, 0, 4, 0, 5, 0, 6, 0, 7, 0, 8]

/-- After the first `FEED` of TV-41-18: one byte is missing. -/
def oneByteMissing : State :=
  session .WL 7 0x00 #v[1, 2, 3, 4, 5, 6, 7, 0] (0xFF :: 0xFF :: pay.take 15)

/-- The second state of TV-P4. -/
def oneWord : State := session .NWH 1 0x00 #v[1, 0, 0, 0, 0, 0, 0, 0] [0xFF, 0xFF, 0x00, 0x01]

def markerSeen : State := session .WH 0 0x00 (Vector.replicate 8 0) [0xFF, 0xFF]

def oneMarker : State := session .AM2 0 0x00 (Vector.replicate 8 0) [0xFF]

def neverStarted : State := { State.reset with act := .uninitialised }

/-! ### WellFormed -/

theorem test_feed_of_256_bytes_has_no_listing : (Instr.feed (List.replicate 256 0)).wf = false := by decide +kernel
theorem test_feed_of_255_bytes_has_a_listing : (Instr.feed (List.replicate 255 0)).wf = true := by decide +kernel
theorem test_init_request_with_data_has_no_listing : (Request.mk 0 [0x01]).wf = false := by decide
theorem test_feed_request_of_256_bytes_has_no_listing : (Request.mk 1 (List.replicate 256 0)).wf = false := by
  decide +kernel

/-! ### Decoding of written words: R76 for the operations, the table of R80 for the transitions -/

theorem test_decode_init : decode (.listing [0x00]) = .ok .init := rfl
theorem test_decode_feed : decode (.listing [0x01, 0x04, 0xFF, 0xFF, 0x00, 0x01]) = .ok (.feed [0xFF, 0xFF, 0x00, 0x01]) := rfl
theorem test_decode_am1Other : decode (.selector 0b0000) = .ok .am1Other := rfl
theorem test_decode_am1Mark : decode (.selector 0b0001) = .ok .am1Mark := rfl
theorem test_decode_am2Other : decode (.selector 0b0010) = .ok .am2Other := rfl
theorem test_decode_am2Mark : decode (.selector 0b0011) = .ok .am2Mark := rfl
theorem test_decode_whData : decode (.selector 0b0100) = .ok .whData := rfl
theorem test_decode_whMark : decode (.selector 0b0101) = .ok .whMark := rfl
theorem test_decode_wlData : decode (.selector 0b0110) = .ok .wlData := rfl
theorem test_decode_wlFf : decode (.selector 0b0111) = .ok .wlFf := rfl
theorem test_decode_nwhData : decode (.selector 0b1000) = .ok .nwhData := rfl
theorem test_decode_nwhMark : decode (.selector 0b1001) = .ok .nwhMark := rfl
theorem test_reserved_selector_refused : decode (.selector 0b1010) = .error (.reservedSelector 0b1010) := rfl
theorem test_other_first_byte_refused : decode (.listing [0x02]) = .error (.badOperation 0x02) := rfl
theorem test_short_feed_refused : decode (.listing [0x01, 0x02, 0xFF]) = .error .missingData := rfl

/-- The listing of the first two operations of PROG-1. -/
theorem test_program_listing :
    decodeProgram [0x00, 0x01, 0x06, 0xFF, 0xFF, 0x00, 0x0A, 0x00, 0x14] =
      .ok [⟨0, []⟩, ⟨1, [0xFF, 0xFF, 0x00, 0x0A, 0x00, 0x14]⟩] := rfl

/-- The words of the table's rows; the words 0 and 1 of four bits are selectors (log entry 6). -/
theorem test_table_words :
    (List.range 10).map (decodeTableWord 8) =
      [some .init, some (.feed []), some .am2Other, some .am2Mark, some .whData, some .whMark, some .wlData,
       some .wlFf, some .nwhData, some .nwhMark] ∧
    decodeTableWord 4 0 = some .am1Other ∧ decodeTableWord 4 1 = some .am1Mark ∧ decodeTableWord 8 10 = none := by
  decide

/-- The text of the first lines of PROG-3 (R84), and `SEND` with a word that cannot be received (R85). -/
theorem test_assemble :
    (assemble "INIT ; 00\nFEED 0xFF,0xFF, 0x11\nNOP\nSKIP 2").toOption =
      some [⟨0, []⟩, ⟨1, [0xFF, 0xFF, 0x11]⟩, ⟨1, []⟩, ⟨1, [0x00, 0x00]⟩] := by decide +kernel
theorem test_assemble_refuses_unreceivable :
    (AsmLine.send #v[0xFF00, 0, 0, 0, 0, 0, 0, 0]).expand = .error .unreceivableWord := rfl

/-! ### Fetch: the next step runs the placed instruction -/

theorem test_placed_feed_runs :
    (nextOf (step (State.reset.withFetchWord 8 1))).map (·.result) = some ⟨.noFrame, zeroFrame, 18⟩ := by decide
theorem test_placed_wlData_runs :
    (nextOf (step (State.reset.withFetchWord 8 6))).map (·.phase) = some .NWH := by decide

/-! ### Operations: vectors of 95_test_vectors.md -/

/-- TV-40-2: a partial frame is discarded. -/
theorem test_init_discards_partial_frame :
    nextOf (exec .init (session .WL 1 0x56 #v[0x1234, 0, 0, 0, 0, 0, 0, 0] [0xFF, 0xFF, 0x12, 0x34, 0x56])) =
      some State.reset := by decide

/-- TV-S1, step 2. -/
theorem test_feed_completes_frame :
    (nextOf (exec (.feed pay) markerSeen)).map (fun t => (t.result, t.phase, t.buf)) =
      some (⟨.frame, words1to8, 18⟩, .AM1, []) := by decide

/-- TV-40-3: nothing is appended, although 12 bytes would fit. -/
theorem test_feed_rejected_whole :
    nextOf (exec (.feed (List.replicate 13 0x00))
      (session .NWH 2 0x00 #v[1, 2, 0, 0, 0, 0, 0, 0] [0xFF, 0xFF, 0x00, 0x01, 0x00, 0x02])) =
      some { session .NWH 2 0x00 #v[1, 2, 0, 0, 0, 0, 0, 0] [0xFF, 0xFF, 0x00, 0x01, 0x00, 0x02] with
        result := ⟨.capacityExceeded, zeroFrame, 12⟩ } := by decide

/-- R202. -/
theorem test_feed_before_init_refused : refusalOf (exec (.feed [0xFF]) neverStarted) = some .uninitialised := by decide

/-! ### Transitions: vectors of 95_test_vectors.md, each one `FEED` from reset or one transition -/

/-- TV-41-1. -/
theorem test_am1Mark :
    (nextOf (exec (.feed [0xFF]) State.reset)).map (fun t => (t.phase, t.buf, t.result.room)) =
      some (.AM2, [0xFF], 17) := by decide
/-- TV-41-3: `0xFE` is no marker. -/
theorem test_am1Other :
    nextOf (exec (.feed [0xFE, 0x00]) State.reset) = some State.reset := by decide
/-- TV-41-4. -/
theorem test_am2Mark :
    (nextOf (exec (.feed [0xFF, 0xFF]) State.reset)).map (fun t => (t.phase, t.count, t.buf, t.result.room)) =
      some (.WH, 0, [0xFF, 0xFF], 16) := by decide
/-- TV-41-5: both bytes are discarded. -/
theorem test_am2Other : nextOf (exec (.feed [0xFF, 0x12]) State.reset) = some State.reset := by decide
/-- TV-41-14: a run of five marker bytes. -/
theorem test_whMark :
    (nextOf (exec (.feed [0xFF, 0xFF, 0xFF, 0xFF, 0xFF]) State.reset)).map (fun t => (t.phase, t.count, t.buf)) =
      some (.AM2, 0, [0xFF]) := by decide
/-- TV-41-8. -/
theorem test_whData :
    (nextOf (exec (.feed [0xFF, 0xFF, 0x12]) State.reset)).map (fun t => (t.phase, t.hi, t.buf, t.result.room)) =
      some (.WL, 0x12, [0xFF, 0xFF, 0x12], 15) := by decide
/-- TV-41-9. -/
theorem test_wlData :
    (nextOf (exec (.feed [0xFF, 0xFF, 0x12, 0x34]) State.reset)).map (fun t => (t.phase, t.count, t.words[0], t.hi)) =
      some (.NWH, 1, 0x1234, 0x12) := by decide
/-- TV-41-18: the eighth word completes the frame. -/
theorem test_wlData_completes :
    (nextOf (exec (.feed [0x08]) oneByteMissing)).map (fun t => (t.result, t.phase, t.count, t.buf)) =
      some (⟨.frame, words1to8, 18⟩, .AM1, 0, []) := by decide
/-- TV-41-10. -/
theorem test_wlFf :
    (nextOf (exec (.feed [0xFF, 0xFF, 0x03, 0xFF]) State.reset)).map (fun t => (t.phase, t.count, t.words[0])) =
      some (.NWH, 1, 0x03FF) := by decide
/-- TV-41-11: the variant resynchronizes. -/
theorem test_wlFf_variant :
    (nextOf (feedWith true [0xFF, 0xFF, 0x03, 0xFF] State.reset)).map (fun t => (t.phase, t.count, t.hi, t.buf)) =
      some (.AM2, 0, 0x03, [0xFF]) := by decide
/-- TV-41-16: seven words are discarded, `count` stays 7. -/
theorem test_nwhMark :
    (nextOf (exec (.feed (0xFF :: 0xFF :: pay.take 14 ++ [0xFF])) State.reset)).map
      (fun t => (t.phase, t.count, t.buf, t.result.status)) = some (.AM2, 7, [0xFF], .noFrame) := by decide
/-- TV-41-17. -/
theorem test_nwhData :
    (nextOf (exec (.feed [0xFF, 0xFF, 0x00, 0x01, 0x00]) State.reset)).map (fun t => (t.phase, t.count, t.buf.length)) =
      some (.WL, 1, 5) := by decide
/-- TV-41-19: the corners of word assembly. -/
theorem test_word_corners :
    (nextOf (exec (.feed [0xFF, 0xFF, 0x00, 0x00, 0xFE, 0xFF, 0x00, 0xFF, 0xFE, 0x00, 0x7F, 0xFF, 0x80, 0x00, 0x12,
      0x34, 0xFE, 0xFE]) State.reset)).map (fun t => t.result.frame) =
      some #v[0x0000, 0xFEFF, 0x00FF, 0xFE00, 0x7FFF, 0x8000, 0x1234, 0xFEFE] := by decide
/-- R135, the transition by itself: the index is the scan's. -/
theorem test_whMark_transition :
    (nextOf (exec .whMark (scanning .WH 0 0x00 [0xFF, 0xFF, 0xFF]))).map (fun t => (t.phase, t.act)) =
      some (.AM2, .scanning ⟨2, 2, none⟩) := by decide

/-! ### Witnesses: the hypotheses of each statement are met -/

theorem witness_started_or_not : (∀ w, State.reset.act ≠ .scanning w) ∧ (∀ w, neverStarted.act ≠ .scanning w) :=
  ⟨fun _ h => (nomatch h), fun _ h => (nomatch h)⟩

theorem witness_OverfillingFeedIsRejectedWhole :
    oneByteMissing.act = .idle ∧ oneByteMissing.buf.length ≤ 18 ∧
      oneByteMissing.buf.length + [0x00, (0x00 : Byte)].length > 18 := by decide

theorem witness_CapacityExceededCause :
    (∃ t, exec (.feed (List.replicate 19 0)) State.reset = .next t ∧ t.result.status = .capacityExceeded) ∧
    (∃ t, exec .init State.reset = .next t) ∧
    (Instr.am1Mark.request = none ∧ ∃ t, exec .am1Mark (scanning .AM1 0 0 [0xFF]) = .next t) :=
  ⟨⟨_, rfl, by decide⟩, ⟨_, rfl⟩, rfl, ⟨_, rfl⟩⟩

/-- `FittingFeedCompletes`, `FeedIsItsTransitionsInOneStep`: a buffer filled to the last byte, and a frame completed. -/
theorem witness_fitting_feed :
    oneByteMissing.act = .idle ∧ oneByteMissing.buf.length + [(0x08 : Byte)].length ≤ 18 := by decide

/-- The boundary invariant holds in every phase, at both ends of `count`, for both readings of `RESYNC_ON_LOW`. -/
theorem witness_boundary_states :
    ∀ r : Bool, State.reset.AtBoundary r ∧ oneMarker.AtBoundary r ∧ markerSeen.AtBoundary r ∧ oneWord.AtBoundary r ∧
      (session .WL 0 0x12 (Vector.replicate 8 0) [0xFF, 0xFF, 0x12]).AtBoundary r ∧
      (session .NWH 7 0x00 words1to8 (0xFF :: 0xFF :: pay.take 14)).AtBoundary r ∧ oneByteMissing.AtBoundary r := by
  decide +kernel

/-- `RoomIsWhatTheNextFeedMayCarry`: the room is 1 in the fullest state and 18 in the emptiest. -/
theorem witness_room : oneByteMissing.result.room = 1 ∧ State.reset.result.room = 18 := by decide

theorem witness_FrameIsTheWholeBuffer :
    ∀ r : Bool, ∃ t, oneByteMissing.AtBoundary r ∧ feedWith r [0x08] oneByteMissing = .next t ∧
      t.result.status = .frame := fun r => by
  cases r
  · exact ⟨_, by decide, rfl, by decide⟩
  · exact ⟨_, by decide, rfl, by decide⟩

theorem words1to8_emittable (r : Bool) : ∀ w ∈ words1to8.toList, emittableWord r w = true :=
  List.all_eq_true.mp (by cases r <;> decide)

theorem witness_WholeFrameIsEmitted (r : Bool) :
    oneByteMissing.AtBoundary r ∧ oneByteMissing.buf ++ [0x08] = Frame.wire words1to8 ∧
      ∀ w ∈ words1to8.toList, emittableWord r w = true :=
  ⟨by cases r <;> decide, by decide, words1to8_emittable r⟩

theorem witness_ChunkingDoesNotMatter :
    ∀ r : Bool, State.reset.AtBoundary r ∧
      ∃ fs t, feedChunks r [[0x55, 0xFF], [], [0xFF, 0x12]] State.reset = some (fs, t) := fun r => by
  cases r <;> exact ⟨by decide, _, _, rfl⟩

theorem witness_AnyChunkingOfAFrameDeliversIt :
    ∀ r : Bool, State.reset.AtBoundary r ∧ State.reset.buf = [] ∧
      [[0xFF], 0xFF :: pay.take 15, [0x08]].flatten = Frame.wire words1to8 ∧
      ∃ fs t, feedChunks r [[0xFF], 0xFF :: pay.take 15, [0x08]] State.reset = some (fs, t) := fun r => by
  cases r <;> exact ⟨by decide, rfl, by decide, _, _, rfl⟩

theorem witness_StateIsAFunctionOfTheBytes :
    (∃ fs t, feedChunks Config.resyncOnLow [[0xFF, 0xFF], [0x12]] State.reset = some (fs, t)) ∧
    (∃ fs t, feedChunks Config.resyncOnLow [[0xFF], [0xFF, 0x12]] State.reset = some (fs, t)) ∧
    [[0xFF, 0xFF], [(0x12 : Byte)]].flatten = [[0xFF], [0xFF, 0x12]].flatten := ⟨⟨_, _, rfl⟩, ⟨_, _, rfl⟩, rfl⟩

theorem witness_CapacityErrorDoesNotLatch :
    oneWord.AtBoundary Config.resyncOnLow ∧ ∃ t, exec (.feed (List.replicate 15 0)) oneWord = .next t ∧
      t.result.status = .capacityExceeded ∧ [(0x00 : Byte)].length ≤ t.result.room.toNat :=
  ⟨by decide, _, rfl, by decide, by decide⟩

theorem witness_OperationsWithoutMeaningAreRefused :
    neverStarted.act = .uninitialised ∧ (scanning .AM1 0 0 [0xFF]).act = .scanning ⟨0, 0, none⟩ := by decide

/-- `EveryStepKeepsTheInvariant`: between operations with a request, and inside a scan before, at and after the byte
that completes a frame. -/
theorem witness_EveryStepKeepsTheInvariant :
    State.Inv Config.resyncOnLow { oneByteMissing with requests := [⟨1, [0x08]⟩] } ∧
    State.Inv Config.resyncOnLow { oneByteMissing with
      buf := oneByteMissing.buf ++ [0x08], act := .scanning ⟨17, 0, none⟩ } ∧
    State.Inv Config.resyncOnLow { State.reset with
      buf := Frame.wire words1to8, act := .scanning ⟨18, 18, some words1to8⟩ } := by
  refine ⟨?_, ?_, ?_⟩
  · exact (by decide : State.BoundaryInv Config.resyncOnLow { oneByteMissing with requests := [⟨1, [0x08]⟩] })
  · exact ⟨by decide, by decide, by decide, by decide, by decide, fun _ h => (nomatch h)⟩
  · refine ⟨by decide, by decide, by decide, by decide, by decide, ?_⟩
    intro f hf
    obtain rfl : words1to8 = f := by simpa using hf
    exact ⟨rfl, rfl, rfl, by decide, rfl, by decide⟩

theorem witness_EveryFeedKeepsTheBoundary :
    ∀ r : Bool, oneWord.AtBoundary r ∧ ∃ t, feedWith r [0xFF, 0x00] oneWord = .next t := fun r => by
  cases r <;> exact ⟨by decide, _, rfl⟩

/-- `LeftoverRegistersAreUnobservable`: the same buffer beside different leftovers. -/
theorem witness_LeftoverRegistersAreUnobservable :
    ∀ r : Bool, oneMarker.AtBoundary r ∧ { oneMarker with count := 5, hi := 0x77, words := words1to8 }.AtBoundary r ∧
      (∃ t, feedWith r [0xFF] oneMarker = .next t) ∧
      (∃ t, feedWith r [0xFF] { oneMarker with count := 5, hi := 0x77, words := words1to8 } = .next t) := fun r => by
  cases r <;> exact ⟨by decide, by decide, ⟨_, rfl⟩, ⟨_, rfl⟩⟩

theorem witness_RescanningFromZeroIsEquivalent :
    ∀ r : Bool, oneWord.AtBoundary r ∧ (∃ t, feedWith r [0x12] oneWord = .next t ∧ t.phase = .WL) ∧
      oneWord.buf.length + [(0x12 : Byte)].length ≤ 18 := fun r => by
  cases r <;> exact ⟨by decide, ⟨_, rfl, by decide⟩, by decide⟩

/-- The ten transition statements: a scan that has selected each; for the low byte, below the eighth word and at it. -/
theorem witness_transitions :
    (∃ s w b, State.act s = .scanning w ∧ w.res = none ∧ s.buf[w.i]? = some b ∧ s.phase = .AM1 ∧ b = 0xFF) ∧
    (∃ s w b, State.act s = .scanning w ∧ w.res = none ∧ s.buf[w.i]? = some b ∧ s.phase = .AM1 ∧ b ≠ 0xFF) ∧
    (∃ s w b, State.act s = .scanning w ∧ w.res = none ∧ s.buf[w.i]? = some b ∧ s.phase = .AM2 ∧ b = 0xFF) ∧
    (∃ s w b, State.act s = .scanning w ∧ w.res = none ∧ s.buf[w.i]? = some b ∧ s.phase = .AM2 ∧ b ≠ 0xFF) ∧
    (∃ s w b, State.act s = .scanning w ∧ w.res = none ∧ s.buf[w.i]? = some b ∧ s.phase = .WH ∧ b = 0xFF) ∧
    (∃ s w b, State.act s = .scanning w ∧ w.res = none ∧ s.buf[w.i]? = some b ∧ s.phase = .WH ∧ b ≠ 0xFF) ∧
    (∃ s w b, State.act s = .scanning w ∧ w.res = none ∧ s.buf[w.i]? = some b ∧ s.phase = .NWH ∧ b = 0xFF) ∧
    (∃ s w b, State.act s = .scanning w ∧ w.res = none ∧ s.buf[w.i]? = some b ∧ s.phase = .NWH ∧ b ≠ 0xFF) :=
  ⟨⟨scanning .AM1 0 0 [0xFF], _, _, rfl, rfl, rfl, rfl, rfl⟩,
   ⟨scanning .AM1 0 0 [0x12], _, _, rfl, rfl, rfl, rfl, by decide⟩,
   ⟨scanning .AM2 0 0 [0xFF, 0xFF], _, _, rfl, rfl, rfl, rfl, rfl⟩,
   ⟨scanning .AM2 0 0 [0xFF, 0x12], _, _, rfl, rfl, rfl, rfl, by decide⟩,
   ⟨scanning .WH 0 0 [0xFF, 0xFF, 0xFF], _, _, rfl, rfl, rfl, rfl, rfl⟩,
   ⟨scanning .WH 0 0 [0xFF, 0xFF, 0x12], _, _, rfl, rfl, rfl, rfl, by decide⟩,
   ⟨scanning .NWH 1 0 [0xFF, 0xFF, 0, 1, 0xFF], _, _, rfl, rfl, rfl, rfl, rfl⟩,
   ⟨scanning .NWH 1 0 [0xFF, 0xFF, 0, 1, 0x12], _, _, rfl, rfl, rfl, rfl, by decide⟩⟩

theorem witness_low_byte_transitions :
    (∃ s w b, State.act s = .scanning w ∧ w.res = none ∧ s.buf[w.i]? = some b ∧ s.phase = .WL ∧ b ≠ 0xFF ∧
      s.count.toNat < 7) ∧
    (∃ s w b, State.act s = .scanning w ∧ w.res = none ∧ s.buf[w.i]? = some b ∧ s.phase = .WL ∧ b ≠ 0xFF ∧
      s.count = 7) ∧
    (∃ s w b, State.act s = .scanning w ∧ w.res = none ∧ s.buf[w.i]? = some b ∧ s.phase = .WL ∧ b = 0xFF ∧
      s.count.toNat < 7) ∧
    (∃ s w b, State.act s = .scanning w ∧ w.res = none ∧ s.buf[w.i]? = some b ∧ s.phase = .WL ∧ b = 0xFF ∧
      s.count = 7) :=
  ⟨⟨scanning .WL 6 0x12 [0x34], _, _, rfl, rfl, rfl, rfl, by decide, by decide⟩,
   ⟨scanning .WL 7 0x12 [0x34], _, _, rfl, rfl, rfl, rfl, by decide, rfl⟩,
   ⟨scanning .WL 6 0x12 [0xFF], _, _, rfl, rfl, rfl, rfl, rfl, by decide⟩,
   ⟨scanning .WL 7 0x12 [0xFF], _, _, rfl, rfl, rfl, rfl, rfl, rfl⟩⟩

theorem witness_DiscardMarkerNeverDecreases :
    Instr.whMark.request = none ∧ (scanning .WH 0 0 [0xFF, 0xFF, 0xFF]).act = .scanning ⟨2, 0, none⟩ ∧
      (nextOf (exec .whMark (scanning .WH 0 0 [0xFF, 0xFF, 0xFF]))).isSome = true := by decide

/-- `UnselectedTransitionsAreRefused`: no scan, a scan with a frame pending, a scan at the end of the buffer, and a
scan that selects another transition. -/
theorem witness_UnselectedTransitionsAreRefused :
    Instr.wlData.request = none ∧ (∀ w, State.reset.act ≠ .scanning w) ∧
    { State.reset with act := .scanning ⟨0, 0, some words1to8⟩ }.act = .scanning ⟨0, 0, some words1to8⟩ ∧
    ({ State.reset with act := .scanning ⟨0, 0, none⟩ } : State).buf.length ≤ 0 ∧
    (scanning .AM1 0 0 [0xFF]).act = .scanning ⟨0, 0, none⟩ ∧ (scanning .AM1 0 0 [0xFF]).buf[0]? = some 0xFF ∧
    decodeSelector (selector (scanning .AM1 0 0 [0xFF]).phase 0xFF) ≠ some .wlData :=
  ⟨rfl, fun _ h => (nomatch h), rfl, Nat.le_refl _, rfl, rfl, by decide⟩

theorem witness_StepRunsTheNextRequest :
    (∀ w, State.reset.act ≠ .scanning w) ∧
    { State.reset with requests := [⟨0, []⟩] }.requests = [⟨0, []⟩] ∧ (Request.mk 0 []).op = 0 ∧
    { State.reset with requests := [⟨1, [0xFF]⟩] }.requests = [⟨1, [0xFF]⟩] ∧ (Request.mk 1 [0xFF]).op = 1 ∧
    State.reset.requests = [] := ⟨fun _ h => (nomatch h), rfl, rfl, rfl, rfl, rfl⟩

theorem witness_StepEndsTheScan :
    ({ State.reset with act := .scanning ⟨0, 0, none⟩ } : State).buf.length ≤ (Scan.mk 0 0 none).i ∧
    (Scan.mk 18 18 (some words1to8)).res ≠ none := ⟨Nat.le_refl _, by decide⟩

theorem witness_StartedSessionNeverStops : State.reset.act ≠ .uninitialised := by decide

theorem witness_encodings :
    (Instr.feed [0xFF]).wf = true ∧ (∃ i, decode (.listing [0x01, 0x01, 0xFF]) = .ok i) ∧
    (∃ i, decode (.selector 0b1001) = .ok i) ∧ (∀ r ∈ [Request.mk 0 [], Request.mk 1 [0xFF, 0x00]], r.wf = true) ∧
    (0x02 : Byte) ≠ 0x00 ∧ (0x02 : Byte) ≠ 0x01 ∧ 10 ≤ (0b1010 : BitVec 4).toNat :=
  ⟨by decide, ⟨_, rfl⟩, ⟨_, rfl⟩, by decide, by decide, by decide, by decide⟩

/-- `ListingFormOfRequests`: the longest data a listing holds, and a listing that decodes. -/
theorem witness_ListingFormOfRequests :
    (List.replicate 255 (0x00 : Byte)).length ≤ 255 ∧ decodeListing [0x01, 0x01, 0xFF] = .ok (⟨1, [0xFF]⟩, []) :=
  ⟨by decide +kernel, rfl⟩

/-- `UnreceivableWords`: the largest word each reading receives. -/
theorem witness_UnreceivableWords :
    (0xFEFF : Word).toNat < 0xFF00 ∧ (0xFEFE : Word).toNat < 0xFF00 ∧ (0xFEFE : Word).extractLsb' 0 8 ≠ 0xFF := by
  decide

theorem witness_MarkerRunBeforeAFrame :
    (∀ r : Bool, State.reset.AtBoundary r) ∧ State.reset.phase = .AM1 ∧ (0xFE : Byte) ≠ 0xFF ∧ 1 ≤ 1 ∧ 1 % 2 = 1 ∧
      2 % 2 = 0 := by decide

theorem witness_SendDeliversItsFrame :
    (∀ w ∈ words1to8.toList, Word.hiByte w ≠ 0xFF) ∧
    (∃ w ∈ (#v[0xFF00, 0, 0, 0, 0, 0, 0, 0] : Frame).toList, Word.hiByte w = 0xFF) ∧
    State.reset.phase = .AM1 ∧ oneMarker.phase ≠ .AM1 ∧ oneMarker.AtBoundary Config.resyncOnLow := by
  refine ⟨?_, ⟨0xFF00, by decide, by decide⟩, by decide, by decide, by decide⟩
  have h : words1to8.toList.all (fun w => decide (Word.hiByte w ≠ 0xFF)) = true := by decide
  exact fun w hw => of_decide_eq_true (List.all_eq_true.mp h w hw)

theorem witness_host :
    (HostLoop.mk oneWord [words1to8]).session.AtBoundary Config.resyncOnLow ∧
    (HostLoop.mk oneWord [words1to8]).session.act = .idle := by decide

theorem witness_SessionsAreIndependent : ∃ ss', sessionsExec 1 (.feed [0xFF]) [oneWord, State.reset] = .next ss' :=
  ⟨_, rfl⟩

end Sys2Proof.Tests
end

namespace Sys2Proof

/-! ## What the state operations do: words as bytes, and the candidate frame -/

theorem Word.hiByte_assemble (hi lo : Byte) : Word.hiByte (Word.assemble hi lo) = hi := by
  have h := wordsToBytes_assemble hi lo
  simp only [wordsToBytes, List.flatMap_cons, List.flatMap_nil, List.append_nil, List.cons.injEq] at h
  exact h.1

theorem Word.loByte_assemble (hi lo : Byte) : Word.loByte (Word.assemble hi lo) = lo := by
  have h := wordsToBytes_assemble hi lo
  simp only [wordsToBytes, List.flatMap_cons, List.flatMap_nil, List.append_nil, List.cons.injEq] at h
  exact h.2.1

theorem Word.assemble_hiByte_loByte (w : Word) : Word.assemble (Word.hiByte w) (Word.loByte w) = w := by
  unfold Word.assemble Word.hiByte Word.loByte
  rw [BitVec.extractLsb'_append_extractLsb'_eq_extractLsb' (show 8 = 0 + 8 from rfl)]
  exact BitVec.extractLsb'_eq_self

/-- Equal payload bytes are the bytes of equal words. -/
theorem wordsToBytes_injective : Function.Injective wordsToBytes := by
  intro xs
  induction xs with
  | nil =>
    intro ys h
    cases ys with
    | nil => rfl
    | cons y ys => simp [wordsToBytes] at h
  | cons x xs ih =>
    intro ys h
    cases ys with
    | nil => simp [wordsToBytes] at h
    | cons y ys =>
      simp only [wordsToBytes, List.flatMap_cons, List.cons_append, List.nil_append, List.cons.injEq] at h
      obtain ⟨hhi, hlo, hrest⟩ := h
      have hw : x = y := by rw [← Word.assemble_hiByte_loByte x, hhi, hlo, Word.assemble_hiByte_loByte]
      rw [hw, ih hrest]

theorem Frame.wire_injective : Function.Injective Frame.wire := by
  intro f g h
  simp only [Frame.wire, Frame.payload, List.cons.injEq, true_and] at h
  exact Vector.toList_inj.mp (wordsToBytes_injective h)

/-- The bytes of word `j` in the payload bytes of some words: the high byte, then the low byte (20_memory.md R55). -/
theorem wordsToBytes_getElem? (ws : List Word) (j : Nat) :
    (wordsToBytes ws)[2 * j]? = ws[j]?.map Word.hiByte ∧ (wordsToBytes ws)[2 * j + 1]? = ws[j]?.map Word.loByte := by
  induction ws generalizing j with
  | nil => simp [wordsToBytes]
  | cons w ws ih =>
    cases j with
    | zero => simp [wordsToBytes]
    | succ j => simpa [wordsToBytes, Nat.mul_succ] using ih j

end Sys2Proof

namespace Sys2Proof.Machine

@[simp] theorem State.completedWords_length (s : State) : s.completedWords.length = s.count.toNat := by
  have := s.count.isLt
  simp [State.completedWords, Config.nwords]
  omega

/-- R34: the candidate frame is as long as phase and count say. -/
theorem State.candidate_length (s : State) : s.candidate.length = candidateLength s.phase s.count := by
  cases hp : s.phase <;> simp [State.candidate, candidateLength, hp, wordsToBytes_length] <;> omega

theorem candidateLength_le (p : Phase) (c : BitVec 3) : candidateLength p c ≤ 17 := by
  have := c.isLt
  cases p <;> simp only [candidateLength] <;> omega

theorem count_succ_toNat {c : BitVec 3} (h : c.toNat < 7) : (c + 1).toNat = c.toNat + 1 := by
  have h1 : (1 : BitVec 3).toNat = 1 := rfl
  rw [BitVec.toNat_add, h1]
  omega

theorem count_lt_of_ne {c : BitVec 3} (h : c ≠ 7) : c.toNat < 7 := by
  have hlt := c.isLt
  have hne : c.toNat ≠ 7 := fun h7 => h (BitVec.eq_of_toNat_eq h7)
  omega

theorem count_succ_ne_zero {c : BitVec 3} (h : c.toNat < 7) : c + 1 ≠ 0 := by
  rw [ne_eq, BitVec.toNat_eq, count_succ_toNat h]
  exact Nat.succ_ne_zero _

/-- The length of the candidate frame tells the phase, and the count where words are being assembled. -/
theorem phase_and_count_of_candidateLength {p q : Phase} {c d : BitVec 3} (hc : p = .NWH → c ≠ 0)
    (hd : q = .NWH → d ≠ 0) (h : candidateLength p c = candidateLength q d) :
    p = q ∧ (p = .WL ∨ p = .NWH → c = d) := by
  have := c.isLt
  have := d.isLt
  cases p <;> cases q <;> simp [candidateLength, BitVec.toNat_eq] at hc hd h ⊢ <;> omega

section
variable {r : Bool} {s : State}

theorem State.legalRegisters_of_WH (hp : s.phase = .WH) : s.legalRegisters r = true ↔ s.count = 0 := by
  simp [State.legalRegisters, hp]

theorem State.legalRegisters_of_WL (hp : s.phase = .WL) :
    s.legalRegisters r = true ↔ s.completedWords.all (emittableWord r) = true ∧ isMarker s.hi = false := by
  simp only [State.legalRegisters, hp, Bool.and_eq_true, Bool.not_eq_true']

theorem State.legalRegisters_of_NWH (hp : s.phase = .NWH) :
    s.legalRegisters r = true ↔ s.count ≠ 0 ∧ s.completedWords.all (emittableWord r) = true := by
  simp only [State.legalRegisters, hp, Bool.and_eq_true, decide_eq_true_eq]

end

theorem take_set_succ (ws : Vector Word Config.nwords) (c : Nat) (h : c < Config.nwords) (x : Word) :
    (ws.set c x h).toList.take (c + 1) = ws.toList.take c ++ [x] := by
  have hkeep : (ws.toList.take c).set c x = ws.toList.take c := List.set_eq_of_length_le (by simp)
  simp [Vector.toList_set, List.take_add_one, List.take_set, hkeep, h]

theorem emittableWord_iff (r : Bool) (w : Word) :
    emittableWord r w = true ↔ Word.hiByte w ≠ 0xFF ∧ (r = true → Word.loByte w ≠ 0xFF) := by
  cases r <;> simp [emittableWord, receivableWord, isMarker_eq_false_iff]

theorem emittableWord_assemble {r : Bool} {hi b : Byte} (hhi : isMarker hi = false) (hb : b = 0xFF → r = false) :
    emittableWord r (Word.assemble hi b) = true := by
  rw [emittableWord_iff, Word.hiByte_assemble, Word.loByte_assemble]
  exact ⟨(isMarker_eq_false_iff hi).mp hhi, fun hr heq => by simp [hb heq] at hr⟩

theorem State.completedWords_getElem? {s : State} {j : Nat} (hj : j < s.count.toNat) :
    s.completedWords[j]? = some (s.words[j]'(Nat.lt_trans hj s.count.isLt)) := by
  simp [State.completedWords, hj, Nat.lt_trans hj s.count.isLt]

/-- The bytes of a completed word in the candidate frame (10_state.md R35). -/
theorem State.candidate_getElem?_word {s : State} (hp : s.phase = .WL ∨ s.phase = .NWH) {j : Nat}
    (hj : j < s.count.toNat) :
    s.candidate[2 + 2 * j]? = some (Word.hiByte (s.words[j]'(Nat.lt_trans hj s.count.isLt))) ∧
      s.candidate[3 + 2 * j]? = some (Word.loByte (s.words[j]'(Nat.lt_trans hj s.count.isLt))) := by
  obtain ⟨hhi, hlo⟩ := wordsToBytes_getElem? s.completedWords j
  rw [State.completedWords_getElem? hj] at hhi hlo
  have hlen := wordsToBytes_length s.completedWords
  rw [State.completedWords_length] at hlen
  rw [show 2 + 2 * j = 2 * j + 1 + 1 by omega, show 3 + 2 * j = 2 * j + 1 + 1 + 1 by omega]
  rcases hp with hp | hp <;> simp only [State.candidate, hp, List.cons_append, List.getElem?_cons_succ]
  · rw [List.getElem?_append_left (by omega), List.getElem?_append_left (by omega)]
    exact ⟨hhi, hlo⟩
  · exact ⟨hhi, hlo⟩

/-- Completed words of legal registers can be emitted. -/
theorem State.completedWord_emittable {r : Bool} {s : State} (hp : s.phase = .WL ∨ s.phase = .NWH)
    (hleg : s.legalRegisters r = true) {j : Nat} (hj : j < s.count.toNat) :
    emittableWord r (s.words[j]'(Nat.lt_trans hj s.count.isLt)) = true := by
  have hall : s.completedWords.all (emittableWord r) = true := by
    rcases hp with hp | hp
    · exact ((State.legalRegisters_of_WL hp).mp hleg).1
    · exact ((State.legalRegisters_of_NWH hp).mp hleg).2
  exact List.all_eq_true.mp hall _ (List.mem_of_getElem? (State.completedWords_getElem? hj))

/-! ## The invariant along a scan -/

section
variable {bytes : List Byte} {i disc : Nat} {b : Byte}

/-- A byte that is kept extends the undiscarded examined bytes. -/
theorem drop_take_succ (hb : bytes[i]? = some b) (hd : disc ≤ i) :
    (bytes.take (i + 1)).drop disc = (bytes.take i).drop disc ++ [b] := by
  have hi := (List.getElem?_eq_some_iff.mp hb).1
  rw [List.take_add_one, hb, List.drop_append_of_le_length (by simp; omega)]
  rfl

theorem drop_take_succ_self (hb : bytes[i]? = some b) : (bytes.take (i + 1)).drop i = [b] := by
  rw [drop_take_succ hb le_rfl, List.drop_eq_nil_of_le (List.length_take_le i bytes), List.nil_append]

end

/-- A high byte extends the candidate frame. -/
theorem highByte_extends_candidate {r : Bool} {s : State} {b : Byte} (hp : s.phase = .WH ∨ s.phase = .NWH)
    (hleg : s.legalRegisters r = true) (hb : b ≠ 0xFF) :
    ({ s with hi := b, phase := .WL } : State).candidate = s.candidate ++ [b] ∧
      ({ s with hi := b, phase := .WL } : State).legalRegisters r = true := by
  have hm := (isMarker_eq_false_iff b).mpr hb
  rcases hp with hp | hp
  · have hc : s.count = 0 := (State.legalRegisters_of_WH hp).mp hleg
    simp [State.candidate, State.legalRegisters, State.completedWords, hp, hc, hm, wordsToBytes]
  · obtain ⟨-, hall⟩ := (State.legalRegisters_of_NWH hp).mp hleg
    simpa [State.candidate, State.legalRegisters, State.completedWords, hp, hm] using hall

/-- A low byte completes word `c`: the words up to it are the candidate frame, and all of them can be emitted. -/
theorem lowByte_completes_word {r : Bool} {s : State} {b : Byte} {c : Nat} (hp : s.phase = .WL)
    (hc : s.count.toNat = c) (hlt : c < Config.nwords) (hleg : s.legalRegisters r = true) (hb : b = 0xFF → r = false) :
    Config.marker :: Config.marker ::
        wordsToBytes ((s.words.set c (Word.assemble s.hi b) hlt).toList.take (c + 1)) = s.candidate ++ [b] ∧
      ((s.words.set c (Word.assemble s.hi b) hlt).toList.take (c + 1)).all (emittableWord r) = true := by
  obtain ⟨hall, hhi⟩ := (State.legalRegisters_of_WL hp).mp hleg
  simp only [State.completedWords, hc] at hall
  rw [take_set_succ]
  constructor
  · simp [State.candidate, hp, wordsToBytes_append, wordsToBytes_assemble, State.completedWords, hc]
  · rw [List.all_append, Bool.and_eq_true]
    exact ⟨hall, by simp [emittableWord_assemble hhi hb]⟩

/-- The eighth word completes the frame: the candidate frame with the last byte is the frame on the wire. -/
theorem lowByte_completes_frame {r : Bool} {s : State} {b : Byte} (hp : s.phase = .WL) (hc : s.count = 7)
    (hleg : s.legalRegisters r = true) (hb : b = 0xFF → r = false) :
    s.candidate ++ [b] = Frame.wire (s.words.set 7 (Word.assemble s.hi b)) ∧
      (s.words.set 7 (Word.assemble s.hi b)).toList.all (emittableWord r) = true := by
  have hword := lowByte_completes_word hp (c := 7) (by rw [hc]; rfl) (by decide) hleg hb
  rw [List.take_of_length_le (by simp)] at hword
  exact ⟨hword.1.symm, hword.2⟩

/-- A transition on an examined byte, with the index moved on, keeps the invariant inside the scan. -/
theorem scanInv_stepByte {r : Bool} {s : State} {w : Scan} {b : Byte} (ha : s.act = .scanning w)
    (hinv : s.ScanInv r w) (hres : w.res = none) (hb : s.buf[w.i]? = some b) :
    ∃ w', (stepByte r b s).act = .scanning w' ∧ (stepByte r b s).ScanInv r { w' with i := w'.i + 1 } := by
  obtain ⟨hcap, hdisc, -, hwin, hleg, -⟩ := hinv
  have hi : w.i < s.buf.length := (List.getElem?_eq_some_iff.mp hb).1
  have hdisc' : w.disc ≤ w.i + 1 := Nat.le_succ_of_le hdisc
  have hkeep : (s.buf.take (w.i + 1)).drop w.disc = s.candidate ++ [b] := by rw [drop_take_succ hb hdisc, hwin]
  have hnone : (s.buf.take (w.i + 1)).drop (w.i + 1) = [] := List.drop_eq_nil_of_le (List.length_take_le _ _)
  have hnopend : ∀ {P : Frame → Prop}, ∀ f ∈ w.res, P f := by simp [hres]
  rcases stepByte_cases r ha b with ⟨hp, rfl, h⟩ | ⟨hp, -, h⟩ | ⟨hp, rfl, h⟩ | ⟨hp, -, h⟩ | ⟨-, rfl, h⟩ |
    ⟨hp, hne, h⟩ | ⟨hp, hr, hc, h⟩ | ⟨hp, hr, hc, h⟩ <;> rw [h]
  · -- the first marker byte, R131
    exact ⟨w, ha, hcap, hdisc', hi, by rw [hkeep]; simp [State.candidate, hp], rfl, hnopend⟩
  · -- a byte before any marker, R132
    exact ⟨_, rfl, hcap, le_rfl, hi, by rw [hnone]; simp [State.candidate, hp], by simp [State.legalRegisters, hp],
      hnopend⟩
  · -- the second marker byte, R133
    exact ⟨w, ha, hcap, hdisc', hi, by rw [hkeep]; simp [State.candidate, hp], rfl, hnopend⟩
  · -- a lone marker byte, R134
    exact ⟨_, rfl, hcap, le_rfl, hi, hnone, rfl, hnopend⟩
  · -- resynchronization, R135, R138 of the variant, R139
    exact ⟨_, rfl, hcap, Nat.le_succ _, hi, drop_take_succ_self hb, rfl, hnopend⟩
  · -- a high byte, R136, R140
    obtain ⟨hcand, hleg'⟩ := highByte_extends_candidate hp hleg hne
    exact ⟨w, ha, hcap, hdisc', hi, hkeep.trans hcand.symm, hleg', hnopend⟩
  · -- a low byte below the eighth word, R137
    obtain ⟨hcand, hall⟩ := lowByte_completes_word hp rfl s.count.isLt hleg hr
    have hcount := count_succ_toNat hc
    refine ⟨w, ha, hcap, hdisc', hi, ?_, ?_, hnopend⟩
    · rw [hkeep, ← hcand]
      simp only [State.candidate, State.completedWords, hcount]
    · exact (State.legalRegisters_of_NWH rfl).mpr
        ⟨count_succ_ne_zero hc, by simpa only [State.completedWords, hcount] using hall⟩
  · -- the low byte of the eighth word, R137
    obtain ⟨hwire, hall⟩ := lowByte_completes_frame hp hc hleg hr
    have hlen : w.i - w.disc = 17 := by
      have := congrArg List.length hwin
      rw [State.candidate_length, hp, hc] at this
      simpa [candidateLength, hi.le] using this
    have hend : w.i + 1 = s.buf.length := by simp only [Config.cap] at hcap; omega
    have hd0 : w.disc = 0 := by simp only [Config.cap] at hcap; omega
    have hbuf : s.buf = s.candidate ++ [b] := by rw [← hkeep, hd0, hend]; simp
    refine ⟨_, rfl, hcap, le_rfl, hi, hnone, rfl, ?_⟩
    rintro f ⟨⟩
    exact ⟨rfl, rfl, rfl, hend, hbuf.trans hwire, hall⟩

/-- A turn of the scan loop keeps the invariant inside the scan. -/
theorem scanInv_scanTurn {r : Bool} {s t : State} {w : Scan} (ha : s.act = .scanning w) (hinv : s.ScanInv r w)
    (ht : scanTurn r s = some t) : ∃ w', t.act = .scanning w' ∧ t.ScanInv r w' := by
  obtain ⟨w', b, ha', he, rfl⟩ := (scanTurn_eq_some_iff r s t).mp ht
  obtain rfl : w' = w := by simpa [ha] using ha'.symm
  obtain ⟨hres, hb⟩ := (State.examined_eq_some_iff s w' b).mp he
  obtain ⟨w₁, ha₁, hinv₁⟩ := scanInv_stepByte ha hinv hres hb
  simp only [State.advanceIndex, ha₁]
  exact ⟨_, rfl, hinv₁⟩

theorem ofNat5_sub_toNat {m n : Nat} (h : n ≤ m) (hm : m ≤ 18) :
    (BitVec.ofNat 5 m - BitVec.ofNat 5 n).toNat = m - n := by
  simp only [BitVec.toNat_sub, BitVec.toNat_ofNat]
  omega

/-- The result of a `FEED` that was not rejected (40_session.md R109). -/
def pendingResult (res : Option Frame) (room : BitVec 5) : Result :=
  match res with
  | none => ⟨.noFrame, zeroFrame, room⟩
  | some f => ⟨.frame, f, room⟩

/-- The fields after the end of a scan (40_session.md R108, R109). -/
theorem closeFeed_eq (w : Scan) (s : State) :
    closeFeed w s = { s with
      scan := BitVec.ofNat 5 w.i - BitVec.ofNat 5 w.disc
      buf := s.buf.drop w.disc
      act := .idle
      result := pendingResult w.res (BitVec.ofNat 5 (18 - (s.buf.drop w.disc).length)) } := by
  unfold closeFeed State.returnPending
  cases w.res <;> rfl

theorem endScan_eq_closeFeed {s : State} {w : Scan} (ha : s.act = .scanning w) : endScan s = closeFeed w s := by
  simp only [endScan, ha]

/-- The session between operations that a scan would leave if the data ended at its index. -/
def State.settled (w : Scan) (s : State) : State := closeFeed w (s.setBuf (s.buf.take w.i))

/-- A scan that has examined the whole buffer leaves what it would leave at its index. -/
theorem endScan_eq_settled {s : State} {w : Scan} (ha : s.act = .scanning w) (hi : s.buf.length ≤ w.i) :
    endScan s = s.settled w := by
  rw [endScan_eq_closeFeed ha, State.settled, List.take_of_length_le hi]
  rfl

/-- The settled session of a scan is at an operation boundary that meets the invariant. -/
theorem atBoundary_settled {r : Bool} {s : State} {w : Scan} (hinv : s.ScanInv r w) : (s.settled w).AtBoundary r := by
  obtain ⟨hcap, hdisc, hi, hwin, hleg, hpend⟩ := hinv
  have hlen : ((s.buf.take w.i).drop w.disc).length = w.i - w.disc := by
    rw [List.length_drop, List.length_take_of_le hi]
  rw [State.settled, closeFeed_eq]
  refine ⟨rfl, hwin, hleg, ?_, ?_, ?_⟩
  · exact (ofNat5_sub_toNat hdisc (hi.trans hcap)).trans hlen.symm
  · cases hres : w.res with
    | none => exact decide_eq_true (rfl : zeroFrame = zeroFrame)
    | some f =>
      obtain ⟨-, -, -, -, -, hemit⟩ := hpend f hres
      exact hemit
  · have hroom : (pendingResult w.res (BitVec.ofNat 5 (18 - (w.i - w.disc)))).room.toNat = 18 - (w.i - w.disc) := by
      cases w.res <;> simp only [pendingResult, BitVec.toNat_ofNat] <;> omega
    rwa [← hlen] at hroom

/-- A scan that meets the invariant and has nothing left to examine has examined the whole buffer. -/
theorem scanInv_at_end {r : Bool} {s : State} {w : Scan} (hinv : s.ScanInv r w)
    (hend : w.res ≠ none ∨ s.buf.length ≤ w.i) : s.buf.length ≤ w.i := by
  obtain ⟨-, -, -, -, -, hpend⟩ := hinv
  rcases hend with hres | hle
  · obtain ⟨f, hf⟩ := Option.ne_none_iff_exists'.mp hres
    obtain ⟨-, -, -, hlast, -⟩ := hpend f hf
    exact hlast.ge
  · exact hle

/-- The end of a scan that has nothing left to examine is an operation boundary. -/
theorem atBoundary_endScan {r : Bool} {s : State} {w : Scan} (ha : s.act = .scanning w) (hinv : s.ScanInv r w)
    (hend : w.res ≠ none ∨ s.buf.length ≤ w.i) : (endScan s).AtBoundary r := by
  rw [endScan_eq_settled ha (scanInv_at_end hinv hend)]
  exact atBoundary_settled hinv

theorem room_toNat {s : State} (h : s.buf.length ≤ 18) : s.room.toNat = Config.cap - s.buf.length := by
  simp only [State.room, BitVec.toNat_ofNat, Config.cap]
  omega

/-- R34: at a boundary the buffer is as long as phase and count say. -/
theorem State.BoundaryInv.buf_length {r : Bool} {s : State} (h : s.BoundaryInv r) :
    s.buf.length = candidateLength s.phase s.count := by rw [h.1, State.candidate_length]

theorem State.BoundaryInv.buf_length_le {r : Bool} {s : State} (h : s.BoundaryInv r) : s.buf.length ≤ 17 :=
  h.buf_length ▸ candidateLength_le _ _

/-- The scan that a fitting `FEED` opens at a boundary meets the invariant inside a scan. -/
theorem scanInv_openFeed {r : Bool} {s : State} {data : List Byte} (h : s.BoundaryInv r)
    (hfit : s.buf.length + data.length ≤ 18) : (openFeed data s).ScanInv r ⟨s.scan.toNat, 0, none⟩ := by
  obtain ⟨hbuf, hleg, hscan, -, -⟩ := h
  refine ⟨by simpa [openFeed, State.bufAppend] using hfit, Nat.zero_le _, ?_, ?_, hleg, by simp⟩
  · simp [openFeed, State.bufAppend, hscan]
  · simp only [openFeed, State.bufAppend, State.setAct_buf, State.setBuf_buf, hscan, List.take_left, List.drop_zero]
    exact hbuf

/-- A property of the scan's states: the invariant inside the scan, with the working values it is about. -/
def State.Scanning (r : Bool) (s : State) : Prop := ∃ w, s.act = .scanning w ∧ s.ScanInv r w

theorem scanning_scanLoop {r : Bool} {s : State} (h : s.Scanning r) (fuel : Nat) : (scanLoop r fuel s).Scanning r :=
  scanLoop_induction (P := State.Scanning r) (fun _ _ ⟨_, ha, hinv⟩ ht => scanInv_scanTurn ha hinv ht) fuel s h

theorem scanning_openFeed {r : Bool} {s : State} {data : List Byte} (h : s.BoundaryInv r)
    (hfit : s.buf.length + data.length ≤ 18) : (openFeed data s).Scanning r :=
  ⟨_, rfl, scanInv_openFeed h hfit⟩

theorem atBoundary_returnCapacityExceeded {r : Bool} {s : State} (h : s.AtBoundary r) :
    s.returnCapacityExceeded.AtBoundary r := by
  have hlen := h.2.buf_length_le
  obtain ⟨hact, hbuf, hleg, hscan, -, -⟩ := h
  exact ⟨hact, hbuf, hleg, hscan, by simp [State.returnCapacityExceeded, Result.legal], room_toNat (by omega)⟩

/-- Every `FEED` of a session at a boundary that meets the invariant leads to one. -/
theorem atBoundary_feed {r : Bool} {s : State} (h : s.AtBoundary r) (data : List Byte) :
    (feed r data s).AtBoundary r := by
  rcases feed_cases r data s with ⟨-, heq⟩ | ⟨hfit, u, w, heq, hu, ha, -, -, -, -, hend⟩
  · rw [heq]
    exact atBoundary_returnCapacityExceeded h
  · obtain ⟨w', ha', hinv⟩ := scanning_scanLoop (scanning_openFeed h.2 hfit) (s.buf.length + data.length)
    rw [← hu] at ha' hinv
    obtain rfl : w' = w := by simpa [ha] using ha'.symm
    rw [heq]
    exact atBoundary_endScan ha hinv hend

/-- Settles O19: the scan a `FEED` opens keeps the invariant of the scan, and its end is a boundary. -/
theorem everyFeedKeepsTheBoundary : Obligations.EveryFeedKeepsTheBoundary := by
  intro r s t data h ht
  obtain ⟨-, rfl⟩ := (feedWith_eq_next_iff r data s t).mp ht
  exact atBoundary_feed h data

/-! ## Every step keeps the invariant -/

theorem reset_atBoundary (r : Bool) : State.reset.AtBoundary r := by
  cases r <;> decide

/-- `INIT` and power-on reset leave a session at a boundary that meets the invariant. -/
theorem atBoundary_startSession (r : Bool) (s : State) : s.startSession.AtBoundary r := reset_atBoundary r

theorem execInit_eq_next {s t : State} (h : execInit s = .next t) : t = s.startSession := by
  unfold execInit at h
  cases ha : s.act <;> simp [ha] at h <;> exact h.symm

/-- A request of the host that completes leaves a session at a boundary, if it found one or was an `INIT`. -/
theorem inv_request {s t : State} {req : Request} (hinv : s.Inv Config.resyncOnLow)
    (h : exec req.decode s = .next t) : t.Inv Config.resyncOnLow := by
  have hidle : ∀ u : State, u.AtBoundary Config.resyncOnLow → u.Inv Config.resyncOnLow := by
    rintro u ⟨ha, hb⟩
    simpa only [State.Inv, ha] using hb
  unfold Request.decode at h
  by_cases hop : req.op = 0
  · rw [if_pos hop] at h
    rw [execInit_eq_next h]
    exact hidle _ (atBoundary_startSession _ _)
  · rw [if_neg hop] at h
    obtain ⟨ha, rfl⟩ := (feedWith_eq_next_iff _ _ _ _).mp h
    simp only [State.Inv, ha] at hinv
    exact hidle _ (atBoundary_feed ⟨ha, hinv⟩ _)

theorem inv_stepRequest {s t : State} (hinv : s.Inv Config.resyncOnLow) (h : stepRequest s = .next t) :
    t.Inv Config.resyncOnLow := by
  unfold stepRequest State.takeRequest at h
  cases hr : s.requests with
  | nil =>
    simp only [hr, Host.Outcome.next.injEq] at h
    exact h ▸ hinv
  | cons req rs =>
    simp only [hr] at h
    exact inv_request (s := s.setRequests rs) hinv h

theorem inv_step_scanning {s : State} {w : Scan} (ha : s.act = .scanning w) (hinv : s.ScanInv Config.resyncOnLow w) :
    ((scanTurn Config.resyncOnLow s).getD (endScan s)).Inv Config.resyncOnLow := by
  cases ht : scanTurn Config.resyncOnLow s with
  | some t =>
    obtain ⟨w', ha', hinv'⟩ := scanInv_scanTurn ha hinv ht
    simpa only [Option.getD_some, State.Inv, ha'] using hinv'
  | none =>
    obtain ⟨ha', hb⟩ := atBoundary_endScan ha hinv ((scanTurn_eq_none_of_scanning ha).mp ht)
    simpa only [Option.getD_none, State.Inv, ha'] using hb

/-- Settles O18: a step is a turn of the scan, its end, or a request of the host, and each keeps the invariant. -/
theorem everyStepKeepsTheInvariant : Obligations.EveryStepKeepsTheInvariant := by
  intro s t hinv h
  cases ha : s.act with
  | scanning w =>
    rw [step_scanning ha] at h
    cases h
    simp only [State.Inv, ha] at hinv
    exact inv_step_scanning ha hinv
  | idle => exact inv_stepRequest hinv (by rwa [step_not_scanning (by simp [ha])] at h)
  | uninitialised => exact inv_stepRequest hinv (by rwa [step_not_scanning (by simp [ha])] at h)

/-- Settles O17: the invariant is decidable, and the reset state has it under either reading. -/
theorem resetMeetsTheInvariant : Obligations.ResetMeetsTheInvariant := reset_atBoundary

/-! ## The reset state -/

/-- Settles O1: `INIT` and power-on reset start the session in the reset state. -/
theorem resetStateIsEstablished : Obligations.ResetStateIsEstablished := by
  have hreset : ∀ s : State, s.startSession.phase = .AM1 ∧ s.startSession.count = 0 ∧ s.startSession.hi = 0x00 ∧
      (∀ j (h : j < 8), s.startSession.words[j] = 0x0000) ∧ s.startSession.buf = [] ∧ s.startSession.scan = 0 :=
    fun _ => ⟨rfl, rfl, rfl, fun _ _ => Vector.getElem_replicate _, rfl, rfl⟩
  refine ⟨hreset State.reset, hreset, fun s hs => ⟨s.startSession, ?_, hreset s⟩⟩
  show execInit s = _
  unfold execInit
  cases ha : s.act with
  | scanning w => exact absurd ha (hs w)
  | idle => rfl
  | uninitialised => rfl

/-! ## The buffer at an operation boundary -/

section
variable {r : Bool} {s : State}

/-- A boundary buffer begins with the marker, as far as it goes. -/
theorem State.BoundaryInv.marker (h : s.BoundaryInv r) {j : Nat} (hj : j < 2) (hlt : j < s.buf.length) :
    s.buf[j]? = some 0xFF := by
  obtain ⟨hbuf, -⟩ := h
  rw [hbuf] at hlt ⊢
  rcases (by omega : j = 0 ∨ j = 1) with rfl | rfl <;> cases hp : s.phase <;> simp [State.candidate, hp] at hlt ⊢

/-- In `WL` the byte after the completed words is the pending high byte (10_state.md R35). -/
theorem State.candidate_getElem?_hi (hp : s.phase = .WL) : s.candidate[2 + 2 * s.count.toNat]? = some s.hi := by
  have hlen := wordsToBytes_length s.completedWords
  rw [State.completedWords_length] at hlen
  have hfront : (Config.marker :: Config.marker :: wordsToBytes s.completedWords).length = 2 + 2 * s.count.toNat := by
    rw [List.length_cons, List.length_cons, hlen]
    omega
  simp only [State.candidate, hp]
  rw [List.getElem?_append_right hfront.le, hfront, Nat.sub_self]
  rfl

end

/-- Settles O20: the buffer is the candidate frame, whose length phase and count tell. -/
theorem bufferLengthFollowsPhaseAndCount : Obligations.BufferLengthFollowsPhaseAndCount := by
  rintro r s ⟨-, h⟩
  have hlen := h.buf_length
  have hle := h.buf_length_le
  have hc := s.count.isLt
  obtain ⟨-, hleg, -⟩ := h
  refine ⟨fun hp => ?_, fun hp => ?_, fun hp => ⟨?_, (State.legalRegisters_of_WH hp).mp hleg⟩, fun hp => ⟨?_, by omega⟩,
    fun hp => ⟨?_, ?_, by omega⟩, hle⟩
  iterate 5 rw [hlen, hp]; rfl
  have hne := ((State.legalRegisters_of_NWH hp).mp hleg).1
  exact Nat.pos_of_ne_zero fun h0 => hne (BitVec.eq_of_toNat_eq h0)

/-- Settles O21: the bytes of the candidate frame, one clause after the other. -/
theorem bufferHoldsTheCandidateFrame : Obligations.BufferHoldsTheCandidateFrame := by
  rintro r s ⟨-, h⟩
  have hlen := h.buf_length
  refine ⟨h.marker (by decide), h.marker (by decide), fun hp j hj => ?_, fun hp => ?_⟩
  · obtain ⟨hbuf, hleg, -⟩ := h
    obtain ⟨hhi, hlo⟩ := State.candidate_getElem?_word hp hj
    obtain ⟨hne, hne'⟩ := (emittableWord_iff r _).mp (State.completedWord_emittable hp hleg hj)
    exact ⟨_, _, hbuf ▸ hhi, hbuf ▸ hlo, (Word.assemble_hiByte_loByte _).symm, hne, hne'⟩
  · obtain ⟨hbuf, hleg, -⟩ := h
    have hlast : s.buf.length - 1 = 2 + 2 * s.count.toNat := by
      simp only [hlen, hp, candidateLength]
      omega
    rw [hlast, hbuf]
    exact ⟨State.candidate_getElem?_hi hp, (isMarker_eq_false_iff _).mp ((State.legalRegisters_of_WL hp).mp hleg).2⟩

/-! ## Two scans hand in hand -/

theorem examined_congr {s u : State} (h : s.buf = u.buf) (w : Scan) : s.examined w = u.examined w := by
  simp only [State.examined, State.bufAt, h]

/-- After a transition with the index moved on, the session is still inside its scan. -/
theorem advanceIndex_stepByte_act (r : Bool) {s : State} {w : Scan} (ha : s.act = .scanning w) (b : Byte) :
    ∃ w', (stepByte r b s).advanceIndex.act = .scanning w' := by
  obtain ⟨-, -, -, -, x, hx, -⟩ := stepByte_frame r ha b
  simp only [State.advanceIndex, hx]
  exact ⟨_, rfl⟩

/-- Two scans of the same buffer at the same place go on and end together: a relation that every transition on the
byte they examine keeps holds of them after the scan loop. -/
theorem scanLoop_lockstep {r : Bool} {R : State → State → Prop}
    (hsame : ∀ s u, R s u → u.act = s.act ∧ u.buf = s.buf)
    (hturn : ∀ s u w b, R s u → s.act = .scanning w → s.examined w = some b →
      R (stepByte r b s).advanceIndex (stepByte r b u).advanceIndex) :
    ∀ (fuel : Nat) {s u : State} {w : Scan}, R s u → s.act = .scanning w → R (scanLoop r fuel s) (scanLoop r fuel u)
  | 0, _, _, _, h, _ => h
  | fuel + 1, s, u, w, h, ha => by
    obtain ⟨hact, hbuf⟩ := hsame s u h
    have hau := hact.trans ha
    have hex := examined_congr hbuf w
    unfold scanLoop
    cases he : s.examined w with
    | none => simpa only [scanTurn, ha, hau, hex, he] using h
    | some b =>
      obtain ⟨w', ha'⟩ := advanceIndex_stepByte_act r ha b
      simpa only [scanTurn, ha, hau, hex, he] using
        scanLoop_lockstep hsame hturn fuel (hturn s u w b h ha he) ha'

/-! ## Two sessions with the same buffer: the leftover registers are not read -/

/-- Two scans at the same place that have discarded alike and have completed a frame alike. -/
def SameProgress (s u : State) : Prop :=
  ∃ w x, s.act = .scanning w ∧ u.act = .scanning x ∧ w.i = x.i ∧ w.disc = x.disc ∧ (w.res = none ↔ x.res = none)

theorem SameProgress.advanceIndex {s u : State} (h : SameProgress s u) :
    SameProgress s.advanceIndex u.advanceIndex := by
  obtain ⟨w, x, hs, hu, hi, hdisc, hres⟩ := h
  simp only [State.advanceIndex, hs, hu]
  exact ⟨_, _, rfl, rfl, congrArg (· + 1) hi, hdisc, hres⟩

/-- With the same frame pending, the working values are the same. -/
theorem SameProgress.eq {s u : State} {w x : Scan} (h : SameProgress s u) (hs : s.act = .scanning w)
    (hu : u.act = .scanning x) (hpend : (w.res = none ↔ x.res = none) → w.res = x.res) : w = x := by
  obtain ⟨w', x', hs', hu', hi, hdisc, hres⟩ := h
  obtain rfl : w' = w := by simpa [hs] using hs'.symm
  obtain rfl : x' = x := by simpa [hu] using hu'.symm
  obtain ⟨i, disc, res⟩ := w'
  simp only at hi hdisc hpend hres
  rw [hi, hdisc, hpend hres]

section
variable {r : Bool} {s u : State} {w : Scan}

theorem sameProgress_wlDataBody (hs : s.act = .scanning w) (hu : u.act = .scanning w) (hc : s.count = u.count)
    (b : Byte) : SameProgress (wlDataBody b s) (wlDataBody b u) := by
  by_cases h7 : s.count = 7
  · rw [wlDataBody_of_count_eq hs b h7, wlDataBody_of_count_eq hu b (hc ▸ h7)]
    exact ⟨_, _, rfl, rfl, rfl, rfl, by simp⟩
  · have hlt := count_lt_of_ne h7
    rw [wlDataBody_of_count_lt b s hlt, wlDataBody_of_count_lt b u (hc ▸ hlt)]
    exact ⟨w, w, hs, hu, rfl, rfl, Iff.rfl⟩

/-- A transition of the working values is decided by the phase, the byte and, for a low byte, the count. -/
theorem sameProgress_stepByte (hs : s.act = .scanning w) (hu : u.act = .scanning w) (hp : s.phase = u.phase)
    (hc : s.phase = .WL → s.count = u.count) (b : Byte) :
    SameProgress (stepByte r b s) (stepByte r b u) := by
  have hkeep : SameProgress s u := ⟨w, w, hs, hu, rfl, rfl, Iff.rfl⟩
  have hupdate : ∀ d : Scan → Nat, SameProgress (s.updateScan fun w => { w with disc := d w })
      (u.updateScan fun w => { w with disc := d w }) := fun d => by
    rw [State.updateScan_scanning hs, State.updateScan_scanning hu]
    exact ⟨_, _, rfl, rfl, rfl, rfl, Iff.rfl⟩
  unfold stepByte
  rw [← hp]
  cases hps : s.phase <;> cases isMarker b
  case AM1.true => exact hkeep
  case AM1.false => exact hupdate _
  case AM2.true => exact hkeep
  case AM2.false => exact hupdate _
  case WH.true => exact hupdate _
  case WH.false => exact hkeep
  case NWH.true => exact hupdate _
  case NWH.false => exact hkeep
  case WL.false => exact sameProgress_wlDataBody hs hu (hc hps) b
  case WL.true =>
    cases r with
    | true => exact hupdate _
    | false => exact sameProgress_wlDataBody hs hu (hc hps) b

end

/-- Two scans of the same buffer at the same place, both of which meet the invariant. Their phase, and the registers
that have a meaning in it, then agree: both candidate frames are the same bytes. -/
def SameScan (r : Bool) (s u : State) : Prop :=
  ∃ w, s.act = .scanning w ∧ u.act = .scanning w ∧ s.buf = u.buf ∧ s.ScanInv r w ∧ u.ScanInv r w

/-- Two sessions whose legal registers describe the same bytes are in the same phase. -/
theorem phase_and_count_of_candidate {r : Bool} {s u : State} (hs : s.legalRegisters r = true)
    (hu : u.legalRegisters r = true) (h : s.candidate = u.candidate) :
    s.phase = u.phase ∧ (s.phase = .WL ∨ s.phase = .NWH → s.count = u.count) := by
  refine phase_and_count_of_candidateLength ?_ ?_ (by rw [← State.candidate_length, h, State.candidate_length])
  · exact fun hp => ((State.legalRegisters_of_NWH hp).mp hs).1
  · exact fun hp => ((State.legalRegisters_of_NWH hp).mp hu).1

theorem SameScan.phase_and_count {r : Bool} {s u : State} (h : SameScan r s u) :
    s.phase = u.phase ∧ (s.phase = .WL → s.count = u.count) := by
  obtain ⟨w, -, -, hbuf, ⟨-, -, -, hs, hsl, -⟩, -, -, -, hu, hul, -⟩ := h
  obtain ⟨hp, hc⟩ := phase_and_count_of_candidate hsl hul (hs.symm.trans (hbuf ▸ hu))
  exact ⟨hp, fun hwl => hc (.inl hwl)⟩

/-- Frames pending in two scans of the same buffer are the same frame: the buffer holds it on the wire. -/
theorem pending_eq {r : Bool} {s u : State} {w x : Scan} (hs : s.ScanInv r w) (hu : u.ScanInv r x)
    (hbuf : s.buf = u.buf) (hres : w.res = none ↔ x.res = none) : w.res = x.res := by
  obtain ⟨-, -, -, -, -, hs⟩ := hs
  obtain ⟨-, -, -, -, -, hu⟩ := hu
  cases hw : w.res with
  | none => rw [hres.mp hw]
  | some f =>
    cases hx : x.res with
    | none => rw [hres.mpr hx] at hw; cases hw
    | some g =>
      obtain ⟨-, -, -, -, hf, -⟩ := hs f hw
      obtain ⟨-, -, -, -, hg, -⟩ := hu g hx
      rw [Frame.wire_injective (hf.symm.trans (hbuf.trans hg))]

/-- A transition on the byte two such scans examine. -/
theorem SameScan.turn {r : Bool} {s u : State} {w : Scan} {b : Byte} (h : SameScan r s u) (ha : s.act = .scanning w)
    (he : s.examined w = some b) : SameScan r (stepByte r b s).advanceIndex (stepByte r b u).advanceIndex := by
  obtain ⟨hp, hc⟩ := h.phase_and_count
  obtain ⟨w', has, hau, hbuf, hs, hu⟩ := h
  obtain rfl : w' = w := by simpa [ha] using has.symm
  have hts := (scanTurn_eq_some_iff r s _).mpr ⟨w', b, has, he, rfl⟩
  have htu := (scanTurn_eq_some_iff r u _).mpr ⟨w', b, hau, examined_congr hbuf w' ▸ he, rfl⟩
  obtain ⟨ws, ha₁, hs₁⟩ := scanInv_scanTurn has hs hts
  obtain ⟨wu, ha₂, hu₁⟩ := scanInv_scanTurn hau hu htu
  have hbuf' := (scanTurn_frame hts).1.trans (hbuf.trans (scanTurn_frame htu).1.symm)
  have hprog := (sameProgress_stepByte (r := r) has hau hp hc b).advanceIndex
  have hw := hprog.eq ha₁ ha₂ (pending_eq hs₁ hu₁ hbuf')
  exact ⟨ws, ha₁, hw ▸ ha₂, hbuf', hs₁, hw ▸ hu₁⟩

theorem SameScan.scanLoop {r : Bool} {s u : State} (h : SameScan r s u) (fuel : Nat) :
    SameScan r (scanLoop r fuel s) (scanLoop r fuel u) := by
  have hsame : ∀ s u, SameScan r s u → u.act = s.act ∧ u.buf = s.buf := fun _ _ ⟨_, has, hau, hbuf, _⟩ =>
    ⟨hau.trans has.symm, hbuf.symm⟩
  have ⟨_, ha, _⟩ := h
  exact scanLoop_lockstep hsame (fun _ _ _ _ h ha he => h.turn ha he) fuel h ha

/-- The ends of two such scans answer the same result and leave the same buffer and phase. -/
theorem SameScan.endScan {r : Bool} {s u : State} (h : SameScan r s u) :
    (endScan s).result = (endScan u).result ∧ (endScan s).buf = (endScan u).buf ∧
      (endScan s).phase = (endScan u).phase := by
  have hp := h.phase_and_count.1
  obtain ⟨w, has, hau, hbuf, -, -⟩ := h
  rw [endScan_scanning has, endScan_scanning hau, hbuf]
  exact ⟨rfl, rfl, hp⟩

/-- Two sessions at a boundary with the same buffer open the same scan. -/
theorem sameScan_openFeed {r : Bool} {s u : State} {data : List Byte} (hs : s.BoundaryInv r) (hu : u.BoundaryInv r)
    (hbuf : s.buf = u.buf) (hfit : s.buf.length + data.length ≤ 18) :
    SameScan r (openFeed data s) (openFeed data u) := by
  have hscan : s.scan.toNat = u.scan.toNat := by
    obtain ⟨-, -, hss, -⟩ := hs
    obtain ⟨-, -, hsu, -⟩ := hu
    rw [hss, hsu, hbuf]
  refine ⟨⟨s.scan.toNat, 0, none⟩, rfl, by rw [hscan]; rfl, ?_, scanInv_openFeed hs hfit, ?_⟩
  · simp [openFeed, State.bufAppend, hbuf]
  · rw [hscan]
    exact scanInv_openFeed hu (hbuf ▸ hfit)

/-- Settles O22: the scans of the two `FEED`s go hand in hand, since each candidate frame is the same bytes. -/
theorem leftoverRegistersAreUnobservable : Obligations.LeftoverRegistersAreUnobservable := by
  rintro r s u s' u' data ⟨-, hs⟩ ⟨-, hu⟩ hbuf hs' hu'
  obtain ⟨-, rfl⟩ := (feedWith_eq_next_iff r data s s').mp hs'
  obtain ⟨-, rfl⟩ := (feedWith_eq_next_iff r data u u').mp hu'
  unfold feed
  rw [← hbuf]
  by_cases hfit : s.buf.length + data.length > Config.cap
  · rw [if_pos hfit, if_pos hfit]
    refine ⟨by simp [State.returnCapacityExceeded, State.room, hbuf], hbuf, ?_⟩
    obtain ⟨hsb, hsl, -⟩ := hs
    obtain ⟨hub, hul, -⟩ := hu
    exact (phase_and_count_of_candidate hsl hul (hsb.symm.trans (hbuf.trans hub))).1
  · rw [if_neg hfit, if_neg hfit]
    exact ((sameScan_openFeed hs hu hbuf (not_lt.mp hfit)).scanLoop _).endScan

/-! ## The scan loop in two parts -/

theorem scanLoop_of_scanTurn_eq_none {r : Bool} {s : State} (h : scanTurn r s = none) (fuel : Nat) :
    scanLoop r fuel s = s := by
  cases fuel <;> simp [scanLoop, h]

theorem scanLoop_add (r : Bool) (m n : Nat) (s : State) : scanLoop r (m + n) s = scanLoop r n (scanLoop r m s) := by
  induction m generalizing s with
  | zero => rw [Nat.zero_add]; rfl
  | succ m ih =>
    rw [Nat.succ_add]
    cases h : scanTurn r s with
    | none => rw [scanLoop_of_scanTurn_eq_none h, scanLoop_of_scanTurn_eq_none h, scanLoop_of_scanTurn_eq_none h]
    | some t => simpa only [scanLoop, h] using ih t

/-- Turns beyond the end of the buffer change nothing. -/
theorem scanLoop_enough {r : Bool} {s : State} {w : Scan} (ha : s.act = .scanning w) {m : Nat}
    (hm : s.buf.length ≤ m + w.i) (n : Nat) : scanLoop r (m + n) s = scanLoop r m s := by
  rw [scanLoop_add, scanLoop_of_scanTurn_eq_none (scanLoop_done r m s w ha hm)]

/-- At a boundary a `FEED` needs one turn for each new byte. -/
theorem feed_eq_of_fits {r : Bool} {s : State} {data : List Byte} (h : s.BoundaryInv r)
    (hfit : s.buf.length + data.length ≤ 18) : feed r data s = endScan (scanLoop r data.length (openFeed data s)) := by
  obtain ⟨-, -, hscan, -⟩ := h
  unfold feed
  rw [if_neg (not_lt.mpr hfit), Nat.add_comm]
  rw [scanLoop_enough (w := ⟨s.scan.toNat, 0, none⟩) rfl (by simp [openFeed, State.bufAppend, hscan]; omega)]

/-! ## Scanning the candidate frame again -/

section
variable {r : Bool} {s : State}

theorem stepByte_of_highByte {b : Byte} (hp : s.phase = .WH ∨ s.phase = .NWH) (hb : b ≠ 0xFF) :
    stepByte r b s = { s with hi := b, phase := .WL } := by
  have hm := (isMarker_eq_false_iff b).mpr hb
  rcases hp with hp | hp <;> simp only [stepByte, hp, hm] <;> rfl

theorem stepByte_of_lowByte {b : Byte} (hp : s.phase = .WL) (hb : b = 0xFF → r = false) :
    stepByte r b s = wlDataBody b s := by
  cases hm : isMarker b with
  | false => simp only [stepByte, hp, hm]
  | true => simp [stepByte, hp, hm, wlFfBody, hb ((isMarker_eq_true_iff b).mp hm)]

/-- A byte in the place of a low byte completes a word: both of its bytes stand in the buffer. -/
theorem State.BoundaryInv.lowByte (h : s.BoundaryInv r) {j : Nat} (hlt : 3 + 2 * j < s.buf.length) :
    ∃ hj : j < s.count.toNat,
      s.buf[2 + 2 * j]? = some (Word.hiByte (s.words[j]'(Nat.lt_trans hj s.count.isLt))) ∧
      s.buf[3 + 2 * j]? = some (Word.loByte (s.words[j]'(Nat.lt_trans hj s.count.isLt))) ∧
      emittableWord r (s.words[j]'(Nat.lt_trans hj s.count.isLt)) = true := by
  rw [h.buf_length] at hlt
  have hp : s.phase = .WL ∨ s.phase = .NWH := by
    cases hp : s.phase <;> simp [hp, candidateLength] at hlt ⊢; omega
  have hj : j < s.count.toNat := by
    rcases hp with hp | hp <;> simp only [hp, candidateLength] at hlt <;> omega
  obtain ⟨hbuf, hleg, -⟩ := h
  obtain ⟨hhi, hlo⟩ := State.candidate_getElem?_word hp hj
  exact ⟨hj, hbuf ▸ hhi, hbuf ▸ hlo, State.completedWord_emittable hp hleg hj⟩

/-- A byte in the place of a high byte is no marker. -/
theorem State.BoundaryInv.highByte (h : s.BoundaryInv r) {j : Nat} (hlt : 2 + 2 * j < s.buf.length) :
    ∃ b, s.buf[2 + 2 * j]? = some b ∧ b ≠ 0xFF := by
  by_cases hlow : 3 + 2 * j < s.buf.length
  · obtain ⟨_, hhi, -, hemit⟩ := h.lowByte hlow
    exact ⟨_, hhi, ((emittableWord_iff r _).mp hemit).1⟩
  · have hlen := h.buf_length
    obtain ⟨hbuf, hleg, -⟩ := h
    have hpj : s.phase = .WL ∧ j = s.count.toNat := by
      cases hp : s.phase <;> simp only [hp, candidateLength] at hlen <;> simp <;> omega
    obtain ⟨hp, rfl⟩ := hpj
    refine ⟨s.hi, hbuf ▸ State.candidate_getElem?_hi hp, ?_⟩
    exact (isMarker_eq_false_iff _).mp ((State.legalRegisters_of_WL hp).mp hleg).2

end

/-- The scan of the buffer from index 0 that has come to phase `p` and count `c`, with scratch byte `h`: all bytes so
far are kept, and the words are those the session already holds. -/
def State.replayed (data : List Byte) (p : Phase) (c : BitVec 3) (h : Byte) (s : State) : State :=
  { s with
    phase := p, count := c, hi := h, scan := 0, buf := s.buf ++ data,
    act := .scanning ⟨candidateLength p c, 0, none⟩ }

/-- What phase, count and scratch byte of a repeated scan can be: the count moves with the words, and in `WL` the
scratch byte is the last byte read. -/
def State.ReplayRegisters (p : Phase) (c : BitVec 3) (h : Byte) (s : State) : Prop :=
  match p with
  | .AM1 => c = s.count
  | .AM2 => c = s.count
  | .WH => c = 0
  | .WL => s.buf[2 + 2 * c.toNat]? = some h
  | .NWH => c ≠ 0

theorem candidateLength_WL (c : BitVec 3) : candidateLength .WL c = candidateLength .NWH c + 1 := by
  simp only [candidateLength]
  omega

theorem candidateLength_NWH_succ {c : BitVec 3} (h : c.toNat < 7) :
    candidateLength .NWH (c + 1) = candidateLength .WL c + 1 := by
  simp only [candidateLength, count_succ_toNat h]
  omega

/-- One turn of a repeated scan inside the old buffer. -/
theorem scanTurn_replayed {r : Bool} {s : State} {data : List Byte} {p : Phase} {c : BitVec 3} {h : Byte}
    (hs : s.BoundaryInv r) (hreg : s.ReplayRegisters p c h) (hlt : candidateLength p c < s.buf.length) :
    ∃ p' c' h', scanTurn r (s.replayed data p c h) = some (s.replayed data p' c' h') ∧ s.ReplayRegisters p' c' h' ∧
      candidateLength p' c' = candidateLength p c + 1 := by
  have hturn : ∀ b, s.buf[candidateLength p c]? = some b →
      scanTurn r (s.replayed data p c h) = some (stepByte r b (s.replayed data p c h)).advanceIndex := fun b hb =>
    (scanTurn_eq_some_iff _ _ _).mpr ⟨_, b, rfl, (State.examined_eq_some_iff _ _ _).mpr
      ⟨rfl, (List.getElem?_append_left hlt).trans hb⟩, rfl⟩
  cases p with
  | AM1 => exact ⟨.AM2, c, h, hturn _ (hs.marker (j := 0) (by decide) hlt), hreg, rfl⟩
  | AM2 => exact ⟨.WH, 0, h, hturn _ (hs.marker (j := 1) (by decide) hlt), rfl, rfl⟩
  | WH =>
    obtain rfl : c = 0 := hreg
    obtain ⟨b, hb, hne⟩ := hs.highByte (j := 0) hlt
    refine ⟨.WL, 0, b, ?_, hb, rfl⟩
    rw [hturn b hb, stepByte_of_highByte (.inl rfl) hne]
    rfl
  | NWH =>
    obtain ⟨b, hb, hne⟩ := hs.highByte hlt
    refine ⟨.WL, c, b, ?_, hb, candidateLength_WL c⟩
    rw [hturn b hb, stepByte_of_highByte (.inr rfl) hne]
    simp only [State.replayed, candidateLength_WL]
    rfl
  | WL =>
    obtain ⟨hj, hhi, hlo, hemit⟩ := hs.lowByte hlt
    have hh : h = Word.hiByte (s.words[c.toNat]'c.isLt) := Option.some.inj (hreg.symm.trans hhi)
    have hr : Word.loByte (s.words[c.toNat]'c.isLt) = 0xFF → r = false := fun hff =>
      Bool.eq_false_iff.mpr fun hr => ((emittableWord_iff r _).mp hemit).2 hr hff
    have hc : c.toNat < 7 := by have := s.count.isLt; omega
    have hstore : s.words.set c.toNat (Word.assemble h (Word.loByte (s.words[c.toNat]'c.isLt))) c.isLt = s.words := by
      rw [hh, Word.assemble_hiByte_loByte, Vector.set_getElem_self]
    refine ⟨.NWH, c + 1, h, ?_, count_succ_ne_zero hc, candidateLength_NWH_succ hc⟩
    rw [hturn _ hlo, stepByte_of_lowByte rfl hr, wlDataBody_of_count_lt _ _ hc]
    simp only [State.replayed, hstore, candidateLength_NWH_succ hc]
    rfl

/-- A repeated scan of the old buffer comes to its end with the session's own phase and count. -/
theorem scanLoop_replayed {r : Bool} {s : State} {data : List Byte} (hs : s.BoundaryInv r) :
    ∀ (m : Nat) {p : Phase} {c : BitVec 3} {h : Byte}, s.ReplayRegisters p c h →
      candidateLength p c + m = s.buf.length →
      ∃ p' c' h', scanLoop r m (s.replayed data p c h) = s.replayed data p' c' h' ∧ s.ReplayRegisters p' c' h' ∧
        candidateLength p' c' = s.buf.length
  | 0, p, c, h, hreg, hlen => ⟨p, c, h, rfl, hreg, hlen⟩
  | m + 1, p, c, h, hreg, hlen => by
    obtain ⟨p₁, c₁, h₁, hturn, hreg₁, hlen₁⟩ := scanTurn_replayed (data := data) hs hreg (by omega)
    obtain ⟨p₂, c₂, h₂, hloop, hend⟩ := scanLoop_replayed (data := data) hs m hreg₁ (by omega)
    exact ⟨p₂, c₂, h₂, by simpa only [scanLoop, hturn] using hloop, hend⟩

/-- When the repeated scan has read the old buffer, phase, count and, in `WL`, the scratch byte are the session's. -/
theorem replayRegisters_at_end {r : Bool} {s : State} {p : Phase} {c : BitVec 3} {h : Byte} (hs : s.BoundaryInv r)
    (hreg : s.ReplayRegisters p c h) (hlen : candidateLength p c = s.buf.length) :
    p = s.phase ∧ c = s.count ∧ (s.phase = .WL → h = s.hi) := by
  rw [hs.buf_length] at hlen
  obtain ⟨hbuf, hleg, -⟩ := hs
  obtain ⟨rfl, hc⟩ := phase_and_count_of_candidateLength (by rintro rfl; exact hreg)
    (fun hp => ((State.legalRegisters_of_NWH hp).mp hleg).1) hlen
  cases hp : s.phase with
  | AM1 => exact ⟨rfl, by simpa [State.ReplayRegisters, hp] using hreg, nofun⟩
  | AM2 => exact ⟨rfl, by simpa [State.ReplayRegisters, hp] using hreg, nofun⟩
  | WH =>
    have h0 : c = 0 := by simpa [State.ReplayRegisters, hp] using hreg
    exact ⟨rfl, h0.trans ((State.legalRegisters_of_WH hp).mp hleg).symm, nofun⟩
  | NWH => exact ⟨rfl, hc (.inr hp), nofun⟩
  | WL =>
    obtain rfl := hc (.inl hp)
    have hh : s.buf[2 + 2 * s.count.toNat]? = some h := by simpa [State.ReplayRegisters, hp] using hreg
    rw [hbuf, State.candidate_getElem?_hi hp] at hh
    exact ⟨rfl, rfl, fun _ => (Option.some.inj hh).symm⟩

/-! ## The scratch byte is read in `WL` only -/

/-- The second state is the first but for the cursor, which a scan overwrites at its end, and, outside `WL`, the
scratch byte. -/
def SameButScratch (s u : State) : Prop := u = { s with hi := u.hi, scan := u.scan } ∧ (s.phase = .WL → u.hi = s.hi)

section
variable {r : Bool} {s u : State}

theorem SameButScratch.buf_eq (h : SameButScratch s u) : u.buf = s.buf := by rw [h.1]
theorem SameButScratch.act_eq (h : SameButScratch s u) : u.act = s.act := by rw [h.1]

theorem SameButScratch.advanceIndex {w : Scan} (h : SameButScratch s u) (ha : s.act = .scanning w) :
    SameButScratch s.advanceIndex u.advanceIndex := by
  obtain ⟨hu, hhi⟩ := h
  rw [hu]
  simp only [State.advanceIndex, ha]
  exact ⟨rfl, hhi⟩

theorem sameButScratch_wlDataBody {w : Scan} (k : BitVec 5) (ha : s.act = .scanning w) (b : Byte) :
    SameButScratch (wlDataBody b s) (wlDataBody b { s with scan := k }) := by
  by_cases h7 : s.count = 7
  · rw [wlDataBody_of_count_eq ha b h7, wlDataBody_of_count_eq (s := { s with scan := k }) ha b h7]
    exact ⟨rfl, fun _ => rfl⟩
  · have hlt := count_lt_of_ne h7
    rw [wlDataBody_of_count_lt b s hlt, wlDataBody_of_count_lt b { s with scan := k } hlt]
    exact ⟨rfl, fun _ => rfl⟩

/-- The scratch byte is read in `WL` only, and every transition into `WL` writes it. -/
theorem SameButScratch.stepByte {w : Scan} (h : SameButScratch s u) (ha : s.act = .scanning w) (b : Byte) :
    SameButScratch (stepByte r b s) (stepByte r b u) := by
  obtain ⟨hu, hhi⟩ := h
  have hau : u.act = .scanning w := by rw [hu]; exact ha
  have hleave : ∀ p ≠ Phase.WL, SameButScratch (s.setPhase p) (u.setPhase p) := fun p hp =>
    ⟨by rw [hu]; rfl, fun h => absurd h hp⟩
  have hdiscard : ∀ d : Scan → Nat, ∀ p ≠ Phase.WL,
      SameButScratch ((s.updateScan fun w => { w with disc := d w }).setPhase p)
        ((u.updateScan fun w => { w with disc := d w }).setPhase p) := fun d p hp => by
    rw [State.updateScan_scanning ha, State.updateScan_scanning hau, hu]
    exact ⟨rfl, fun h => absurd h hp⟩
  have hhigh : SameButScratch ((s.setHi b).setPhase .WL) ((u.setHi b).setPhase .WL) :=
    ⟨by rw [hu]; rfl, fun _ => rfl⟩
  have hlow : s.phase = .WL → SameButScratch (wlDataBody b s) (wlDataBody b u) := fun hp => by
    rw [hu, hhi hp]
    exact sameButScratch_wlDataBody u.scan ha b
  unfold Machine.stepByte
  rw [show u.phase = s.phase by rw [hu]]
  cases hp : s.phase <;> cases isMarker b
  case AM1.true => exact hleave .AM2 nofun
  case AM1.false =>
    simp only [am1OtherBody, State.discardThrough, State.updateScan_scanning ha, State.updateScan_scanning hau]
    exact ⟨by rw [hu]; rfl, fun h => absurd (hp.symm.trans h) nofun⟩
  case AM2.true => exact ⟨by rw [hu]; rfl, nofun⟩
  case AM2.false => exact hdiscard _ .AM1 nofun
  case WH.true => exact hdiscard _ .AM2 nofun
  case WH.false => exact hhigh
  case NWH.true => exact hdiscard _ .AM2 nofun
  case NWH.false => exact hhigh
  case WL.false => exact hlow hp
  case WL.true =>
    cases r with
    | true => exact hdiscard _ .AM2 nofun
    | false => exact hlow hp

theorem SameButScratch.scanLoop {w : Scan} (h : SameButScratch s u) (ha : s.act = .scanning w) (fuel : Nat) :
    SameButScratch (scanLoop r fuel s) (scanLoop r fuel u) := by
  refine scanLoop_lockstep (fun _ _ h => ⟨h.act_eq, h.buf_eq⟩) (fun s _ _ b h ha _ => ?_) fuel h ha
  obtain ⟨-, -, -, -, x, hx, -⟩ := stepByte_frame r ha b
  exact (h.stepByte ha b).advanceIndex hx

/-- The end of the scan overwrites the cursor: what is left is the scratch byte. -/
theorem SameButScratch.endScan {w : Scan} (h : SameButScratch s u) (ha : s.act = .scanning w) :
    { endScan u with hi := (endScan s).hi } = endScan s ∧
      ((endScan s).phase = .WL → (endScan u).hi = (endScan s).hi) := by
  have hau := h.act_eq.trans ha
  obtain ⟨hu, hhi⟩ := h
  rw [endScan_scanning ha, endScan_scanning hau]
  refine ⟨?_, hhi⟩
  rw [hu]

end

/-- Settles O23: the repeated scan of the old buffer comes back to the session's own state but for the scratch byte,
and from there the two scans go hand in hand. -/
theorem rescanningFromZeroIsEquivalent : Obligations.RescanningFromZeroIsEquivalent := by
  rintro r s t data ⟨hact, hs⟩ ht hfit
  obtain ⟨-, rfl⟩ := (feedWith_eq_next_iff r data s t).mp ht
  refine ⟨_, (feedWith_eq_next_iff r data _ _).mpr ⟨hact, rfl⟩, ?_⟩
  obtain ⟨p, c, h, hloop, hreg, hlen⟩ := scanLoop_replayed (data := data) hs s.buf.length (p := .AM1) (c := s.count)
    (h := s.hi) rfl (Nat.zero_add _)
  obtain ⟨rfl, rfl, hhi⟩ := replayRegisters_at_end hs hreg hlen
  have hscan : s.scan.toNat = s.buf.length := by
    obtain ⟨-, -, hscan, -⟩ := hs
    exact hscan
  have hsame : SameButScratch (openFeed data s) (s.replayed data s.phase s.count h) := by
    refine ⟨?_, hhi⟩
    simp only [State.replayed, openFeed, hscan, ← hlen]
    rfl
  have hfeed : feed r data { s with phase := .AM1, scan := 0 } =
      endScan (scanLoop r data.length (s.replayed data s.phase s.count h)) := by
    unfold feed
    rw [if_neg (not_lt.mpr hfit), scanLoop_add, ← hloop]
    rfl
  obtain ⟨-, -, -, -, w, hw⟩ := scanLoop_frame r data.length (s := openFeed data s) rfl
  rw [hfeed, feed_eq_of_fits hs hfit]
  exact (hsame.scanLoop rfl _).endScan hw

/-! ## A transition does not see where its scan stands -/

/-- The working values of the same scan, seen from a buffer whose first `d` bytes are gone. -/
def Activity.shift (d : Nat) : Activity → Activity
  | .scanning w => .scanning { w with i := w.i - d, disc := w.disc - d }
  | .idle => .idle
  | .uninitialised => .uninitialised

/-- The same registers in another place: other bytes in the buffer, another cursor and last result, and the working
values moved down by `d`. -/
def State.relocate (d : Nat) (bytes : List Byte) (k : BitVec 5) (res : Result) (s : State) : State :=
  { s with buf := bytes, scan := k, result := res, act := s.act.shift d }

section
variable (r : Bool) {s : State} {w : Scan} {d : Nat} (bytes : List Byte) (k : BitVec 5) (res : Result) (b : Byte)

theorem State.relocate_act (ha : s.act = .scanning w) :
    (s.relocate d bytes k res).act = .scanning { w with i := w.i - d, disc := w.disc - d } := by
  simp only [State.relocate, ha, Activity.shift]

theorem discardThrough_relocate (ha : s.act = .scanning w) (hd : d ≤ w.i) :
    (s.relocate d bytes k res).discardThrough = s.discardThrough.relocate d bytes k res := by
  have hi : w.i - d + 1 = w.i + 1 - d := (Nat.sub_add_comm hd).symm
  simp only [State.discardThrough, State.updateScan_scanning (State.relocate_act bytes k res ha),
    State.updateScan_scanning ha, hi]
  rfl

theorem advanceIndex_relocate (ha : s.act = .scanning w) (hd : d ≤ w.i) :
    (s.relocate d bytes k res).advanceIndex = s.advanceIndex.relocate d bytes k res := by
  have hi : w.i - d + 1 = w.i + 1 - d := (Nat.sub_add_comm hd).symm
  simp only [State.advanceIndex, State.relocate_act bytes k res ha, ha, hi]
  rfl

theorem resynchronize_relocate (ha : s.act = .scanning w) :
    resynchronize (s.relocate d bytes k res) = (resynchronize s).relocate d bytes k res := by
  simp only [resynchronize, State.discardBefore, State.updateScan_scanning (State.relocate_act bytes k res ha),
    State.updateScan_scanning ha]
  rfl

theorem wlDataBody_relocate (ha : s.act = .scanning w) (hd : d ≤ w.i) :
    wlDataBody b (s.relocate d bytes k res) = (wlDataBody b s).relocate d bytes k res := by
  have hi : w.i - d + 1 = w.i + 1 - d := (Nat.sub_add_comm hd).symm
  by_cases h7 : s.count = 7
  · rw [wlDataBody_of_count_eq ha b h7, wlDataBody_of_count_eq (State.relocate_act bytes k res ha) b h7]
    simp only [hi]
    rfl
  · have hlt := count_lt_of_ne h7
    rw [wlDataBody_of_count_lt b s hlt, wlDataBody_of_count_lt b (s.relocate d bytes k res) hlt]
    rfl

theorem stepByte_relocate (ha : s.act = .scanning w) (hd : d ≤ w.i) :
    stepByte r b (s.relocate d bytes k res) = (stepByte r b s).relocate d bytes k res := by
  have hthrough := discardThrough_relocate bytes k res ha hd
  have hresync := resynchronize_relocate (d := d) bytes k res ha
  have hlow := wlDataBody_relocate bytes k res b ha hd
  unfold stepByte
  rw [show (s.relocate d bytes k res).phase = s.phase from rfl]
  cases s.phase <;> cases isMarker b
  case AM1.true => rfl
  case AM1.false => exact hthrough
  case AM2.true => rfl
  case AM2.false => exact congrArg (State.setPhase · .AM1) hthrough
  case WH.true => exact hresync
  case WH.false => rfl
  case NWH.true => exact hresync
  case NWH.false => rfl
  case WL.false => exact hlow
  case WL.true =>
    cases r with
    | true => exact hresync
    | false => exact hlow

theorem stepByte_setResult (ha : s.act = .scanning w) :
    stepByte r b (s.setResult res) = (stepByte r b s).setResult res := by
  have hreloc : ∀ (u : State) {x : Scan}, u.act = .scanning x → u.setResult res = u.relocate 0 u.buf u.scan res := by
    intro u x hu
    simp only [State.setResult, State.relocate, hu, Activity.shift, Nat.sub_zero]
  obtain ⟨hbuf, hscan, -, -, x, hx, -⟩ := stepByte_frame r ha b
  rw [hreloc s ha, hreloc _ hx, stepByte_relocate r _ _ res b ha (Nat.zero_le _), hbuf, hscan]

end

theorem scanLoop_setResult (r : Bool) {s : State} {w : Scan} (ha : s.act = .scanning w) (res : Result) (fuel : Nat) :
    scanLoop r fuel (s.setResult res) = (scanLoop r fuel s).setResult res := by
  refine scanLoop_lockstep (R := fun s u => u = s.setResult res) ?_ (fun s u w b hu ha _ => ?_) fuel rfl ha
  · rintro s u rfl
    exact ⟨rfl, rfl⟩
  · obtain ⟨-, -, -, -, x, hx, -⟩ := stepByte_frame r ha b
    rw [hu, stepByte_setResult r res b ha]
    simp only [State.advanceIndex, State.setResult_act, hx]
    rfl

theorem endScan_setResult {s : State} {w : Scan} (ha : s.act = .scanning w) (res : Result) :
    endScan (s.setResult res) = endScan s := by
  rw [endScan_eq_closeFeed ha, endScan_eq_closeFeed ((State.setResult_act s res).trans ha), closeFeed_eq, closeFeed_eq]
  rfl

/-- A fitting `FEED` does not read the last result back, and leaves its own. -/
theorem feed_setResult {r : Bool} {s : State} {data : List Byte} (hfit : s.buf.length + data.length ≤ 18)
    (res : Result) : feed r data (s.setResult res) = feed r data s := by
  have hfeed : ∀ u : State, u.buf = s.buf →
      feed r data u = endScan (scanLoop r (s.buf.length + data.length) (openFeed data u)) := fun u hu => by
    unfold feed
    rw [hu, if_neg (not_lt.mpr hfit)]
  have hopen : openFeed data (s.setResult res) = (openFeed data s).setResult res := rfl
  obtain ⟨-, -, -, -, w, hw⟩ := scanLoop_frame r (s.buf.length + data.length) (s := openFeed data s) rfl
  rw [hfeed (s.setResult res) rfl, hfeed s rfl, hopen, scanLoop_setResult r rfl, endScan_setResult hw]

/-! ## A scan is a sequence of one-byte `FEED`s -/

theorem disc_le_stepByte (r : Bool) {s : State} {w : Scan} (ha : s.act = .scanning w) (hd : w.disc ≤ w.i) (b : Byte) :
    ∃ w', (stepByte r b s).act = .scanning w' ∧ w'.i = w.i ∧ w.disc ≤ w'.disc := by
  rcases stepByte_cases r ha b with ⟨-, -, h⟩ | ⟨-, -, h⟩ | ⟨-, -, h⟩ | ⟨-, -, h⟩ | ⟨-, -, h⟩ | ⟨-, -, h⟩ |
    ⟨-, -, -, h⟩ | ⟨-, -, -, h⟩ <;> rw [h]
  · exact ⟨w, ha, rfl, le_rfl⟩
  · exact ⟨_, rfl, rfl, Nat.le_succ_of_le hd⟩
  · exact ⟨w, ha, rfl, le_rfl⟩
  · exact ⟨_, rfl, rfl, Nat.le_succ_of_le hd⟩
  · exact ⟨_, rfl, rfl, hd⟩
  · exact ⟨w, ha, rfl, le_rfl⟩
  · exact ⟨w, ha, rfl, le_rfl⟩
  · exact ⟨_, rfl, rfl, Nat.le_succ_of_le hd⟩

theorem ofNat5_sub_shift {m n d : Nat} (hm : d ≤ m) (hn : d ≤ n) :
    BitVec.ofNat 5 (m - d) - BitVec.ofNat 5 (n - d) = BitVec.ofNat 5 m - BitVec.ofNat 5 n := by
  apply BitVec.eq_of_toNat_eq
  simp only [BitVec.toNat_sub, BitVec.toNat_ofNat]
  omega

/-- The end of a scan whose buffer stops at its index, relocated, is the settled session of the scan. -/
theorem endScan_relocate {s : State} {w : Scan} {d : Nat} {bytes : List Byte} {k : BitVec 5} {res : Result}
    (ha : s.act = .scanning w) (hdisc : d ≤ w.disc) (hi : d ≤ w.i) (hbytes : bytes = (s.buf.take w.i).drop d) :
    endScan (s.relocate d bytes k res) = s.settled w := by
  have hdrop : bytes.drop (w.disc - d) = (s.buf.take w.i).drop w.disc := by
    rw [hbytes, List.drop_drop, Nat.add_sub_cancel' hdisc]
  rw [endScan_eq_closeFeed (State.relocate_act bytes k res ha), State.settled, closeFeed_eq, closeFeed_eq]
  simp only [State.relocate, State.setBuf, hdrop, ofNat5_sub_shift hi hdisc]

/-- The scan a `FEED` of one byte opens on a settled session is the settled scan, relocated. -/
theorem openFeed_settled {r : Bool} {s : State} {w : Scan} {b : Byte} (ha : s.act = .scanning w)
    (hinv : s.ScanInv r w) (hres : w.res = none) (hb : s.buf[w.i]? = some b) :
    openFeed [b] (s.settled w) = s.relocate w.disc ((s.buf.take (w.i + 1)).drop w.disc) (s.settled w).scan
      (s.settled w).result := by
  obtain ⟨hcap, hdisc, hi, -⟩ := hinv
  obtain ⟨i, disc, res⟩ := w
  simp only at hres hdisc hi hb
  subst hres
  have hscan := ofNat5_sub_toNat hdisc (hi.trans hcap)
  rw [drop_take_succ hb hdisc]
  simp only [State.relocate, ha, Activity.shift, Nat.sub_self, State.settled, closeFeed_eq, openFeed]
  simp only [State.bufAppend, State.setBuf, State.setAct, hscan]

/-- Examining a byte in a scan is feeding it to the settled session. -/
theorem feed_settled {r : Bool} {s : State} {w : Scan} {b : Byte} (ha : s.act = .scanning w) (hinv : s.ScanInv r w)
    (hres : w.res = none) (hb : s.buf[w.i]? = some b) :
    ∃ w', (stepByte r b s).advanceIndex.act = .scanning w' ∧ w'.i = w.i + 1 ∧
      feed r [b] (s.settled w) = (stepByte r b s).advanceIndex.settled w' := by
  have hopen := openFeed_settled ha hinv hres hb
  have hbound := (atBoundary_settled hinv).2
  have hfit : (s.settled w).buf.length + [b].length ≤ 18 := by
    have := hbound.buf_length_le
    simp only [List.length_singleton]
    omega
  obtain ⟨-, hdisc, hle, -⟩ := hinv
  obtain ⟨w₁, ha₁, hi₁, hd₁⟩ := disc_le_stepByte r ha hdisc b
  obtain ⟨hbuf, -⟩ := stepByte_frame r ha b
  have hadv : (stepByte r b s).advanceIndex.act = .scanning { w₁ with i := w₁.i + 1 } := by
    simp only [State.advanceIndex, ha₁]
    rfl
  have hbyte : ((s.buf.take (w.i + 1)).drop w.disc)[w.i - w.disc]? = some b := by
    rw [List.getElem?_drop, Nat.add_sub_cancel' hdisc, List.getElem?_take_of_lt (Nat.lt_succ_self _), hb]
  have hturn := (scanTurn_eq_some_iff r _ _).mpr ⟨_, b, State.relocate_act (d := w.disc)
    ((s.buf.take (w.i + 1)).drop w.disc) (s.settled w).scan (s.settled w).result ha,
    (State.examined_eq_some_iff _ _ _).mpr ⟨hres, hbyte⟩, rfl⟩
  have hle₁ : w.disc ≤ w₁.i := hi₁ ▸ hdisc
  rw [stepByte_relocate r _ _ _ b ha hdisc, advanceIndex_relocate _ _ _ ha₁ hle₁] at hturn
  refine ⟨_, hadv, congrArg (· + 1) hi₁, ?_⟩
  rw [feed_eq_of_fits hbound hfit, hopen, List.length_singleton]
  simp only [scanLoop, hturn]
  refine endScan_relocate hadv hd₁ (Nat.le_succ_of_le hle₁) ?_
  simp only [State.advanceIndex, ha₁, State.setAct_buf, hbuf, hi₁]

/-! ## Feeding in chunks -/

theorem feedChunks_cons_eq_some_iff {r : Bool} {c : List Byte} {cs : List (List Byte)} {s u : State} {fs : List Frame} :
    feedChunks r (c :: cs) s = some (fs, u) ↔
      s.act = .idle ∧ (feed r c s).result.status ≠ .capacityExceeded ∧
        ∃ gs, feedChunks r cs (feed r c s) = some (gs, u) ∧ fs = (feed r c s).result.frames ++ gs := by
  simp only [feedChunks, feedWith]
  cases s.act with
  | uninitialised => simp
  | scanning w => simp
  | idle =>
    by_cases hst : (feed r c s).result.status = .capacityExceeded
    · simp [hst]
    · cases hcs : feedChunks r cs (feed r c s) with
      | none => simp [hst, hcs]
      | some gu => simp [hst, hcs, Prod.ext_iff, eq_comm, and_comm]

theorem feedChunks_append {r : Bool} {ys : List (List Byte)} {t u : State} {gs : List Frame}
    (hys : feedChunks r ys t = some (gs, u)) :
    ∀ (xs : List (List Byte)) {s : State} {fs : List Frame}, feedChunks r xs s = some (fs, t) →
      feedChunks r (xs ++ ys) s = some (fs ++ gs, u)
  | [], s, fs, h => by
    cases h
    exact hys
  | x :: xs, s, fs, h => by
    obtain ⟨hact, hst, fs', hrest, rfl⟩ := feedChunks_cons_eq_some_iff.mp h
    exact feedChunks_cons_eq_some_iff.mpr ⟨hact, hst, _, feedChunks_append hys xs hrest, List.append_assoc _ _ _⟩

/-- A `FEED` is accepted exactly when its data fits (60_exceptions.md R171). -/
theorem feed_accepted_iff (r : Bool) (data : List Byte) (s : State) :
    (feed r data s).result.status ≠ .capacityExceeded ↔ s.buf.length + data.length ≤ 18 := by
  rcases feed_cases r data s with ⟨hover, heq⟩ | ⟨hfit, u, w, heq, -, ha, -⟩
  · simp only [heq, State.returnCapacityExceeded, State.setResult_result]
    simpa using hover
  · rw [heq, endScan_eq_closeFeed ha, closeFeed_eq]
    cases w.res <;> simp [pendingResult, hfit]

/-- The last result before a sequence of chunks can only show in the last result after it. -/
theorem feedChunks_setResult {r : Bool} {chunks : List (List Byte)} {s t : State} {fs : List Frame}
    (h : feedChunks r chunks s = some (fs, t)) (res : Result) :
    ∃ res', feedChunks r chunks (s.setResult res) = some (fs, t.setResult res') := by
  cases chunks with
  | nil =>
    cases h
    exact ⟨res, rfl⟩
  | cons c cs =>
    obtain ⟨hact, hst, gs, hrest, rfl⟩ := feedChunks_cons_eq_some_iff.mp h
    have hsame := feed_setResult (r := r) ((feed_accepted_iff r c s).mp hst) res
    refine ⟨t.result, feedChunks_cons_eq_some_iff.mpr ?_⟩
    rw [hsame]
    exact ⟨hact, hst, gs, hrest, rfl⟩

/-- A settled session delivers the frame that is pending in its scan. -/
theorem settled_frames (s : State) (w : Scan) :
    (s.settled w).result.frames = w.res.toList ∧ (s.settled w).result.status ≠ .capacityExceeded := by
  rw [State.settled, closeFeed_eq]
  cases w.res <;> simp [pendingResult, Result.frames]

/-- Feeding the bytes a scan has still to examine one at a time, from the settled session, ends as the scan does and
delivers the frame it emits. -/
theorem feedChunks_singleBytes_settled {r : Bool} : ∀ (rest : List Byte) {s : State} {w : Scan},
    s.act = .scanning w → s.ScanInv r w → w.res = none → s.buf.drop w.i = rest →
    feedChunks r (singleBytes rest) (s.settled w) =
      some ((endScan (scanLoop r rest.length s)).result.frames, endScan (scanLoop r rest.length s))
  | [], s, w, ha, hinv, hres, hrest => by
    have hend := endScan_eq_settled ha (List.drop_eq_nil_iff.mp hrest)
    simp only [List.length_nil, scanLoop, hend, (settled_frames s w).1, hres]
    rfl
  | b :: rest, s, w, ha, hinv, hres, hrest => by
    have hb : s.buf[w.i]? = some b := by rw [← List.head?_drop, hrest, List.head?_cons]
    have hturn := (scanTurn_eq_some_iff r s _).mpr
      ⟨w, b, ha, (State.examined_eq_some_iff s w b).mpr ⟨hres, hb⟩, rfl⟩
    obtain ⟨w', ha', hi', hfeed⟩ := feed_settled ha hinv hres hb
    obtain ⟨w'', ha'', hinv'⟩ := scanInv_scanTurn ha hinv hturn
    obtain rfl : w'' = w' := by simpa [ha'] using ha''.symm
    obtain ⟨hbuf, -⟩ := scanTurn_frame hturn
    have hrest' : (stepByte r b s).advanceIndex.buf.drop w''.i = rest := by
      rw [hbuf, hi', ← List.tail_drop, hrest, List.tail_cons]
    obtain ⟨hframes, hst⟩ := settled_frames (stepByte r b s).advanceIndex w''
    simp only [List.length_cons, scanLoop, hturn]
    refine feedChunks_cons_eq_some_iff.mpr ⟨(atBoundary_settled hinv).1, by rwa [hfeed], ?_⟩
    rw [hfeed, hframes]
    cases hres' : w''.res with
    | none => exact ⟨_, feedChunks_singleBytes_settled rest ha' hinv' hres' hrest', rfl⟩
    | some f =>
      have hlast := scanInv_at_end hinv' (.inl (by simp [hres']))
      obtain rfl : rest = [] := by rw [← hrest', List.drop_eq_nil_of_le hlast]
      simp only [List.length_nil, scanLoop, endScan_eq_settled ha' hlast, hframes, hres']
      exact ⟨[], rfl, rfl⟩

/-- The scan a `FEED` opens has examined nothing yet: if it ended here, only the result would be new. -/
theorem openFeed_settled_at_start {r : Bool} {s : State} (h : s.AtBoundary r) (data : List Byte) :
    (openFeed data s).settled ⟨s.scan.toNat, 0, none⟩ = s.returnNoFrame := by
  obtain ⟨hact, -, -, hcur, -⟩ := h
  have hbuf : (s.buf ++ data).take s.scan.toNat = s.buf := by rw [hcur]; exact List.take_left
  rw [State.settled, closeFeed_eq]
  simp only [openFeed, State.bufAppend, State.setAct_buf, State.setBuf_buf, hbuf, List.drop_zero, BitVec.ofNat_toNat,
    BitVec.setWidth_eq, BitVec.sub_zero]
  rw [← hact]
  rfl

/-- A fitting `FEED` and its bytes fed one at a time. -/
theorem feedChunks_singleBytes_feed {r : Bool} {s : State} {data : List Byte} (h : s.AtBoundary r)
    (hfit : s.buf.length + data.length ≤ 18) :
    ∃ res, feedChunks r (singleBytes data) s = some ((feed r data s).result.frames, (feed r data s).setResult res) := by
  have hscan := scanInv_openFeed h.2 hfit
  have hnew : (openFeed data s).buf.drop s.scan.toNat = data := by
    obtain ⟨-, -, -, hcur, -⟩ := h
    rw [hcur]
    exact List.drop_left
  have hchunks := feedChunks_singleBytes_settled data rfl hscan rfl hnew
  rw [openFeed_settled_at_start h, ← feed_eq_of_fits h.2 hfit] at hchunks
  exact feedChunks_setResult hchunks s.result

/-- R112: chunks that are all accepted deliver the frames, and leave the session but for the last result, of their
bytes fed one at a time. -/
theorem feedChunks_singleBytes_flatten {r : Bool} : ∀ (chunks : List (List Byte)) {s t : State} {fs : List Frame},
    s.AtBoundary r → feedChunks r chunks s = some (fs, t) →
    ∃ res, feedChunks r (singleBytes chunks.flatten) s = some (fs, t.setResult res)
  | [], s, t, fs, _, h => by
    cases h
    exact ⟨s.result, rfl⟩
  | c :: cs, s, t, fs, hs, h => by
    obtain ⟨hact, hst, gs, hrest, rfl⟩ := feedChunks_cons_eq_some_iff.mp h
    obtain ⟨res, hc⟩ := feedChunks_singleBytes_feed hs ((feed_accepted_iff r c s).mp hst)
    obtain ⟨res₁, hcs⟩ := feedChunks_singleBytes_flatten cs (atBoundary_feed hs c) hrest
    obtain ⟨res₂, hcs'⟩ := feedChunks_setResult hcs res
    refine ⟨res₂, ?_⟩
    rw [List.flatten_cons, singleBytes, List.map_append]
    exact feedChunks_append hcs' _ hc

/-- Settles O13: both sequences leave what their bytes leave when fed one at a time. -/
theorem stateIsAFunctionOfTheBytes : Obligations.StateIsAFunctionOfTheBytes := by
  intro chunks chunks' fs fs' t t' h h' hbytes
  obtain ⟨res, hsingle⟩ := feedChunks_singleBytes_flatten chunks (reset_atBoundary _) h
  obtain ⟨res', hsingle'⟩ := feedChunks_singleBytes_flatten chunks' (reset_atBoundary _) h'
  rw [hbytes, hsingle', Option.some.injEq, Prod.mk.injEq] at hsingle
  obtain ⟨hfs, ht⟩ := hsingle
  have hstate := congrArg (State.setResult · t'.result) ht
  exact ⟨hfs.symm, hstate⟩

end Sys2Proof.Machine

namespace Sys2Proof

/-! ## Word assembly -/

/-- R55: the high byte counts 256. -/
theorem Word.assemble_toNat (hi lo : Byte) : (Word.assemble hi lo).toNat = hi.toNat * 256 + lo.toNat := by
  rw [Word.assemble, BitVec.toNat_append, ← Nat.shiftLeft_add_eq_or_of_lt lo.isLt, Nat.shiftLeft_eq]

/-- Settles O51: the value of an assembled word, and its two bytes read back. -/
theorem wordAssemblyIsBigEndian : Obligations.WordAssemblyIsBigEndian :=
  ⟨fun hi lo => ⟨Word.assemble_toNat hi lo, Word.hiByte_assemble hi lo, Word.loByte_assemble hi lo⟩,
    Word.assemble_hiByte_loByte⟩

/-! ## The host's requests -/

theorem Request.decode_of_op_eq_zero {req : Request} (h : req.op = 0) : req.decode = .init := if_pos h

theorem Request.decode_of_op_eq_one {req : Request} (h : req.op = 1) : req.decode = .feed req.data :=
  if_neg (by rw [h]; decide)

end Sys2Proof

namespace Sys2Proof.Machine

theorem stepRequest_cons {s : State} {req : Request} {rs : List Request} (h : s.requests = req :: rs) :
    stepRequest s = exec req.decode (s.setRequests rs) := by
  simp only [stepRequest, State.takeRequest, h]

/-- Settles O38: outside a scan the step takes the request and runs what its operation bit names. -/
theorem stepRunsTheNextRequest : Obligations.StepRunsTheNextRequest := by
  intro s req rs hact hreq
  have hstep : step s = exec req.decode (s.setRequests rs) := (step_not_scanning hact).trans (stepRequest_cons hreq)
  constructor
  · intro hop
    rw [hstep, Request.decode_of_op_eq_zero hop]
    rfl
  · intro hop
    rw [hstep, Request.decode_of_op_eq_one hop]
    rfl

/-! ## A fitting `FEED` completes -/

theorem exec_feed_of_idle {s : State} (h : s.act = .idle) (data : List Byte) :
    exec (.feed data) s = .next (feed Config.resyncOnLow data s) :=
  (feedWith_eq_next_iff _ _ _ _).mpr ⟨h, rfl⟩

/-- A frame pending in a scan is what the frame register holds, and the decoder waits for the next marker
(41_frame_decoder.md R137). -/
def State.PendingIsRegister (s : State) : Prop :=
  ∀ w f, s.act = .scanning w → w.res = some f → f = s.words ∧ s.phase = .AM1 ∧ s.count = 0

theorem State.pendingIsRegister_of_none {s : State} {w : Scan} (ha : s.act = .scanning w) (hr : w.res = none) :
    s.PendingIsRegister := by
  intro x f hx hf
  obtain rfl : w = x := by simpa [ha] using hx
  simp [hr] at hf

theorem pendingIsRegister_advanceIndex {s : State} (h : s.PendingIsRegister) : s.advanceIndex.PendingIsRegister := by
  intro w f hw hf
  cases ha : s.act with
  | scanning x =>
    have hadv : s.advanceIndex = s.setAct (.scanning { x with i := x.i + 1 }) := by simp only [State.advanceIndex, ha]
    rw [hadv] at hw ⊢
    cases hw
    exact h x f ha hf
  | idle => simp [State.advanceIndex, ha] at hw
  | uninitialised => simp [State.advanceIndex, ha] at hw

/-- The eighth word alone makes a frame pending. -/
theorem pendingIsRegister_stepByte (r : Bool) {s : State} {w : Scan} (ha : s.act = .scanning w) (hr : w.res = none)
    (b : Byte) : (stepByte r b s).PendingIsRegister := by
  rcases stepByte_cases r ha b with ⟨-, -, h⟩ | ⟨-, -, h⟩ | ⟨-, -, h⟩ | ⟨-, -, h⟩ | ⟨-, -, h⟩ | ⟨-, -, h⟩ |
    ⟨-, -, -, h⟩ | ⟨-, -, -, h⟩ <;> rw [h]
  · exact State.pendingIsRegister_of_none ha hr
  · exact State.pendingIsRegister_of_none rfl hr
  · exact State.pendingIsRegister_of_none ha hr
  · exact State.pendingIsRegister_of_none rfl hr
  · exact State.pendingIsRegister_of_none rfl hr
  · exact State.pendingIsRegister_of_none ha hr
  · exact State.pendingIsRegister_of_none ha hr
  · rintro x f hx hf
    cases hx
    cases hf
    exact ⟨rfl, rfl, rfl⟩

theorem pendingIsRegister_scanLoop (r : Bool) (fuel : Nat) {s : State} (h : s.PendingIsRegister) :
    (scanLoop r fuel s).PendingIsRegister := by
  refine scanLoop_induction (fun u t _ ht => ?_) fuel s h
  obtain ⟨w, b, ha, he, rfl⟩ := (scanTurn_eq_some_iff r u t).mp ht
  obtain ⟨hr, -⟩ := (State.examined_eq_some_iff u w b).mp he
  exact pendingIsRegister_advanceIndex (pendingIsRegister_stepByte r ha hr b)

/-- Settles O5: the state is the end of the scan the `FEED` opens; a frame it returns is the register's. -/
theorem fittingFeedCompletes : Obligations.FittingFeedCompletes := by
  intro s data hidle hfit
  obtain ⟨hover, -⟩ | ⟨-, u, w, hfeed, hu, ha, hbuf, -, -, hreq, -⟩ := feed_cases Config.resyncOnLow data s
  · exact absurd hfit (not_le.mpr hover)
  have hpend : u.PendingIsRegister := by
    rw [hu]
    exact pendingIsRegister_scanLoop _ _ (State.pendingIsRegister_of_none rfl rfl)
  refine ⟨_, exec_feed_of_idle hidle data, ?_⟩
  rw [hfeed, endScan_eq_closeFeed ha, closeFeed_eq]
  cases hres : w.res with
  | none => exact ⟨rfl, hreq, ⟨w.disc, by rw [hbuf]⟩, rfl, .inl ⟨rfl, rfl⟩⟩
  | some f => exact ⟨rfl, hreq, ⟨w.disc, by rw [hbuf]⟩, rfl, .inr ⟨rfl, hpend w f ha hres⟩⟩

/-! ## A `FEED` is the run of its transitions -/

theorem run_succ_of_step {s t : State} (h : step s = .next t) (k : Nat) :
    Host.Core.run Sys2Proof.core (k + 1) s = Host.Core.run Sys2Proof.core k t := by
  have hcore : Sys2Proof.core.step s = .next t := h
  simp only [Host.Core.run, hcore]

theorem step_of_scanTurn_eq_some {s t : State} (h : scanTurn Config.resyncOnLow s = some t) : step s = .next t := by
  obtain ⟨w, -, ha, -⟩ := (scanTurn_eq_some_iff _ s t).mp h
  rw [step_scanning ha, h, Option.getD_some]

/-- When the scan has nothing left to examine, its end is one step. -/
theorem run_one_of_scanTurn_eq_none {s : State} {w : Scan} (ha : s.act = .scanning w)
    (h : scanTurn Config.resyncOnLow s = none) : Host.Core.run Sys2Proof.core 1 s = .next (endScan s) :=
  run_succ_of_step (by rw [step_scanning ha, h, Option.getD_none]) 0

/-- Stepping through a scan does what its loop and its end do, in at most one step for each unexamined byte and one
for the end. -/
theorem run_scan (fuel : Nat) {s : State} {w : Scan} (ha : s.act = .scanning w) (hlen : s.buf.length ≤ fuel + w.i) :
    ∃ k, k ≤ s.buf.length - w.i + 1 ∧
      Host.Core.run Sys2Proof.core k s = .next (endScan (scanLoop Config.resyncOnLow fuel s)) := by
  induction fuel generalizing s w with
  | zero =>
    have hdone := (scanTurn_eq_none_of_scanning (r := Config.resyncOnLow) ha).mpr (.inr (by omega))
    exact ⟨1, by omega, run_one_of_scanTurn_eq_none ha hdone⟩
  | succ fuel ih =>
    cases hturn : scanTurn Config.resyncOnLow s with
    | none =>
      rw [scanLoop_of_scanTurn_eq_none hturn]
      exact ⟨1, by omega, run_one_of_scanTurn_eq_none ha hturn⟩
    | some t =>
      obtain ⟨hbuf, -, -, -, x, w', hx, ha', hi, hlt, -⟩ := scanTurn_frame hturn
      obtain rfl : w = x := by simpa [ha] using hx
      obtain ⟨k, hk, hrun⟩ := ih ha' (by rw [hbuf]; omega)
      rw [hbuf] at hk
      refine ⟨k + 1, by omega, ?_⟩
      rw [run_succ_of_step (step_of_scanTurn_eq_some hturn)]
      simpa only [scanLoop, hturn] using hrun

/-- Settles O6: the loop of the `FEED` and its end, stepped one transition at a time. -/
theorem feedIsItsTransitionsInOneStep : Obligations.FeedIsItsTransitionsInOneStep := by
  intro s data hidle hfit
  obtain ⟨t, ht, hact, -⟩ := fittingFeedCompletes s data hidle hfit
  have hlen : (openFeed data s).buf.length = s.buf.length + data.length := List.length_append
  obtain ⟨k, hk, hrun⟩ := run_scan (s.buf.length + data.length) (s := openFeed data s) rfl (by rw [hlen]; omega)
  have hfeed : feed Config.resyncOnLow data s =
      endScan (scanLoop Config.resyncOnLow (s.buf.length + data.length) (openFeed data s)) :=
    if_neg (not_lt.mpr hfit)
  obtain rfl : feed Config.resyncOnLow data s = t := by simpa [exec_feed_of_idle hidle] using ht
  rw [hlen] at hk
  exact ⟨k, _, hk, ht, hact, hfeed ▸ hrun⟩

end Sys2Proof.Machine

namespace Sys2Proof

/-! ## The listing form of requests -/

theorem Request.wf_iff (req : Request) :
    req.wf = true ↔ req = ⟨0, []⟩ ∨ ∃ data, data.length < 256 ∧ req = ⟨1, data⟩ := by
  obtain ⟨op, data⟩ := req
  by_cases hop : op = 0
  · simp [Request.wf, hop]
  · obtain rfl : op = 1 := (BitVec.eq_zero_or_eq_one op).resolve_left hop
    simp [Request.wf]

theorem Request.data_length_lt_of_wf {req : Request} (h : req.wf = true) : req.data.length < 256 := by
  obtain rfl | ⟨data, hlen, rfl⟩ := (Request.wf_iff req).mp h
  · exact Nat.zero_lt_succ _
  · exact hlen

theorem decodeListing_init (rest : List Byte) : decodeListing (0x00 :: rest) = .ok (⟨0, []⟩, rest) := rfl

/-- The listing form of `FEED`: the length byte says how much of what follows is data. -/
theorem decodeListing_feed (n : Byte) (tail : List Byte) :
    decodeListing (0x01 :: n :: tail) =
      if n.toNat ≤ tail.length then .ok (⟨1, tail.take n.toNat⟩, tail.drop n.toNat) else .error .missingData := rfl

theorem decodeListing_feed_append {n : Byte} {data : List Byte} (hn : n.toNat = data.length) (rest : List Byte) :
    decodeListing (0x01 :: n :: (data ++ rest)) = .ok (⟨1, data⟩, rest) := by
  rw [decodeListing_feed, hn, if_pos (by simp), List.take_left, List.drop_left]

theorem decodeListing_badOperation {first : Byte} (h0 : first ≠ 0x00) (h1 : first ≠ 0x01) (rest : List Byte) :
    decodeListing (first :: rest) = .error (.badOperation first) := by
  simp only [decodeListing, if_neg h0, if_neg h1]

/-- What a listing of a `FEED` that decodes consists of. -/
theorem eq_append_of_decodeListing_feed {n : Byte} {tail rest : List Byte} {req : Request}
    (h : decodeListing (0x01 :: n :: tail) = .ok (req, rest)) :
    ∃ data, data.length = n.toNat ∧ req = ⟨1, data⟩ ∧ tail = data ++ rest := by
  rw [decodeListing_feed] at h
  split at h
  case isTrue hle =>
    cases h
    exact ⟨_, List.length_take_of_le hle, rfl, (List.take_append_drop _ _).symm⟩
  case isFalse => cases h

theorem toNat_ofNat_length {data : List Byte} (h : data.length < 256) :
    (BitVec.ofNat 8 data.length).toNat = data.length := by
  rw [BitVec.toNat_ofNat, Nat.mod_eq_of_lt h]

/-- The listing decoder reads a request exactly from its one listing form. -/
theorem decodeListing_eq_ok_iff (bytes rest : List Byte) (req : Request) :
    decodeListing bytes = .ok (req, rest) ↔ req.wf = true ∧ bytes = req.listing ++ rest := by
  constructor
  · intro h
    match bytes, h with
    | first :: tail, h =>
      by_cases h0 : first = 0x00
      · subst h0
        rw [decodeListing_init] at h
        cases h
        exact ⟨rfl, rfl⟩
      by_cases h1 : first = 0x01
      · subst h1
        match tail, h with
        | n :: tail, h =>
          obtain ⟨data, hlen, rfl, rfl⟩ := eq_append_of_decodeListing_feed h
          refine ⟨(Request.wf_iff _).mpr (.inr ⟨data, hlen ▸ n.isLt, rfl⟩), ?_⟩
          simp [Request.listing, hlen]
      · rw [decodeListing_badOperation h0 h1] at h
        cases h
  · rintro ⟨hwf, rfl⟩
    obtain rfl | ⟨data, hlen, rfl⟩ := (Request.wf_iff req).mp hwf
    · exact decodeListing_init rest
    · exact decodeListing_feed_append (toNat_ofNat_length hlen) rest

theorem decodeListing_listing_append {req : Request} (h : req.wf = true) (rest : List Byte) :
    decodeListing (req.listing ++ rest) = .ok (req, rest) :=
  (decodeListing_eq_ok_iff _ _ _).mpr ⟨h, rfl⟩

theorem Request.listing_ne_nil (req : Request) : req.listing ≠ [] := by
  unfold Request.listing
  split <;> exact List.cons_ne_nil _ _

/-! ## One instruction, both ways -/

theorem decode_listing_eq_ok_iff (bytes : List Byte) (i : Instr) :
    decode (.listing bytes) = .ok i ↔ ∃ req, decodeListing bytes = .ok (req, []) ∧ req.decode = i := by
  simp only [decode]
  cases h : decodeListing bytes with
  | error e => simp
  | ok out =>
    obtain ⟨req, rest⟩ := out
    cases rest <;> simp

/-- A well-formed request is the encoding of the operation it asks for. -/
theorem encode_decode_of_wf {req : Request} (h : req.wf = true) :
    req.decode.wf = true ∧ encode req.decode = .listing req.listing := by
  obtain rfl | ⟨data, hlen, rfl⟩ := (Request.wf_iff req).mp h
  · exact ⟨rfl, rfl⟩
  · exact ⟨decide_eq_true hlen, rfl⟩

/-- The table of R80 read backwards: a legal selector is the encoding of the transition it names. -/
theorem encode_of_decodeSelector : ∀ sel : BitVec 4, ∀ i ∈ decodeSelector sel, i.wf = true ∧ encode i = .selector sel := by
  decide

/-- Settles O42: an operation is read back from the listing form of its request, a transition from the table. -/
theorem decodeOfEncode : Obligations.DecodeOfEncode := by
  intro i hwf
  cases i with
  | init => rfl
  | feed data =>
    have hreq : (Request.mk 1 data).wf = true := (Request.wf_iff _).mpr (.inr ⟨data, of_decide_eq_true hwf, rfl⟩)
    have hlist := decodeListing_listing_append hreq []
    rw [List.append_nil] at hlist
    exact (decode_listing_eq_ok_iff _ _).mpr ⟨_, hlist, rfl⟩
  | _ => rfl

/-- Settles O43: the listing decoder leaves no bytes and no choice; a selector is one line of the table. -/
theorem encodeOfDecode : Obligations.EncodeOfDecode := by
  intro c i h
  cases c with
  | listing bytes =>
    obtain ⟨req, hlist, rfl⟩ := (decode_listing_eq_ok_iff bytes i).mp h
    obtain ⟨hwf, rfl⟩ := (decodeListing_eq_ok_iff _ _ _).mp hlist
    rw [List.append_nil]
    exact encode_decode_of_wf hwf
  | selector sel =>
    cases hsel : decodeSelector sel with
    | none => simp [decode, hsel] at h
    | some j =>
      obtain rfl : j = i := by simpa [decode, hsel] using h
      exact encode_of_decodeSelector sel j hsel

/-! ## A whole listing -/

/-- One turn of the program decoder takes one request from the front. -/
theorem decodeProgramFuel_listing_append {req : Request} (hwf : req.wf = true) {fuel : Nat} {left : List Byte}
    {rs : List Request} (h : decodeProgramFuel fuel left = .ok rs) :
    decodeProgramFuel (fuel + 1) (req.listing ++ left) = .ok (req :: rs) := by
  have hlist := decodeListing_listing_append hwf left
  obtain ⟨first, rest, hcons⟩ := List.exists_cons_of_ne_nil (List.append_ne_nil_of_left_ne_nil req.listing_ne_nil left)
  rw [hcons] at hlist ⊢
  simp only [decodeProgramFuel, hlist, h]

/-- Fuel for every byte is enough, since each request takes at least one. -/
theorem decodeProgramFuel_encodeProgram : ∀ (rs : List Request) {fuel : Nat}, (∀ req ∈ rs, req.wf = true) →
    (encodeProgram rs).length ≤ fuel → decodeProgramFuel fuel (encodeProgram rs) = .ok rs
  | [], fuel, _, _ => by cases fuel <;> rfl
  | req :: rs, fuel, hwf, hfuel => by
    obtain ⟨hreq, hrs⟩ := List.forall_mem_cons.mp hwf
    have hpos := List.length_pos_iff.mpr req.listing_ne_nil
    have hcons : encodeProgram (req :: rs) = req.listing ++ encodeProgram rs := List.flatMap_cons
    rw [hcons, List.length_append] at hfuel
    obtain ⟨fuel, rfl⟩ : ∃ m, fuel = m + 1 := Nat.exists_eq_succ_of_ne_zero (by omega)
    rw [hcons]
    exact decodeProgramFuel_listing_append hreq (decodeProgramFuel_encodeProgram rs hrs (by omega))

/-- Settles O44, by induction on the requests. -/
theorem programListingRoundTrip : Obligations.ProgramListingRoundTrip :=
  fun rs hwf => decodeProgramFuel_encodeProgram rs hwf le_rfl

/-- Settles O45: the three first bytes, and the length byte that bounds the data. -/
theorem listingFormOfRequests : Obligations.ListingFormOfRequests := by
  refine ⟨decodeListing_init, fun data rest hlen => ?_, fun first rest h0 h1 => ?_, fun bytes rest req h => ?_⟩
  · exact decodeListing_feed_append (toNat_ofNat_length (Nat.lt_succ_of_le hlen)) rest
  · exact decodeListing_badOperation h0 h1 rest
  · exact Nat.le_of_lt_succ (Request.data_length_lt_of_wf ((decodeListing_eq_ok_iff _ _ _).mp h).1)

/-! ## Selectors and phase codes -/

/-- Settles O46: the table line by line; the six reserved selectors are a small finite range. -/
theorem selectorTable : Obligations.SelectorTable := by
  refine ⟨fun p b => ?_, rfl, rfl, rfl, rfl, rfl, rfl, rfl, rfl, rfl, rfl, by decide⟩
  by_cases hb : b = 0xFF
  · rw [selector, (isMarker_eq_true_iff b).mpr hb, if_pos hb]
    rfl
  · rw [selector, (isMarker_eq_false_iff b).mpr hb, if_neg hb]
    rfl

/-- Settles O47: the eight codes one by one, and each phase read back from its own. -/
theorem phaseCodes : Obligations.PhaseCodes :=
  ⟨rfl, rfl, rfl, rfl, rfl, rfl, rfl, rfl, fun p => by cases p <;> rfl⟩

/-- Settles O48: the words are the encodings of the instructions. -/
theorem writtenWordsDecode : Obligations.WrittenWordsDecode :=
  ⟨decodeOfEncode .init rfl, decodeOfEncode (.feed [0xFF, 0x12]) rfl, decodeOfEncode .wlData rfl,
    decodeOfEncode .nwhMark rfl⟩

end Sys2Proof

namespace Sys2Proof

/-! ## The forms of a frame: bytes, 128 bits, the wire -/

section
variable (f : Frame) {j : Nat} (h : j < 8)
include h

/-- R70: the payload bytes of word `j`. -/
theorem Frame.payload_getElem?_word :
    f.payload[2 * j]? = some (Word.hiByte f[j]) ∧ f.payload[2 * j + 1]? = some (Word.loByte f[j]) := by
  have hword : f.toList[j]? = some f[j] := by simp [h]
  have hbytes := wordsToBytes_getElem? f.toList j
  rwa [hword] at hbytes

/-- R70: the wire bytes of word `j`, behind the marker. -/
theorem Frame.wire_getElem?_word :
    f.wire[2 + 2 * j]? = some (Word.hiByte f[j]) ∧ f.wire[3 + 2 * j]? = some (Word.loByte f[j]) := by
  rw [show 2 + 2 * j = 2 * j + 1 + 1 by omega, show 3 + 2 * j = 2 * j + 1 + 1 + 1 by omega]
  exact Frame.payload_getElem?_word f h

/-- R78: the bits of word `j`; of the eight words concatenated, those below and above it fall away. -/
theorem Frame.toBits_extractLsb'_word : (Frame.toBits f).extractLsb' (112 - 16 * j) 16 = f[j] := by
  unfold Frame.toBits
  interval_cases j <;>
    simp (disch := decide) only [BitVec.extractLsb'_append_eq_of_add_le, BitVec.extractLsb'_append_eq_of_le] <;>
    exact BitVec.extractLsb'_eq_self

end

/-- Settles O52: the two bytes of word `j` on the wire are its halves, and a word is its halves assembled. -/
theorem wireFormat : Obligations.WireFormat := by
  refine fun f => ⟨Frame.wire_length f, rfl, rfl, fun j h => ?_⟩
  obtain ⟨hhi, hlo⟩ := Frame.wire_getElem?_word f h
  exact ⟨_, _, hhi, hlo, rfl, rfl, Word.assemble_hiByte_loByte f[j]⟩

/-- Bits of a range of bits. -/
theorem extractLsb'_extractLsb' {n : Nat} (x : BitVec n) {a b m k : Nat} (h : a + k ≤ m) :
    (x.extractLsb' b m).extractLsb' a k = x.extractLsb' (b + a) k := by
  apply BitVec.eq_of_getLsbD_eq
  intro i hi
  simp only [BitVec.getLsbD_extractLsb', hi, show a + i < m by omega, decide_true, Bool.true_and, Nat.add_assoc]

theorem Frame.ofBits_getElem (F : BitVec 128) {j : Nat} (h : j < 8) :
    (Frame.ofBits F)[j] = F.extractLsb' (112 - 16 * j) 16 := by
  interval_cases j <;> rfl

theorem Frame.ofBits_toBits (f : Frame) : Frame.ofBits (Frame.toBits f) = f :=
  Vector.ext fun _ h => (Frame.ofBits_getElem _ h).trans (Frame.toBits_extractLsb'_word f h)

/-- R78: the bits of payload byte `k`, one half of a word. -/
theorem Frame.payload_getElem?_toBits (f : Frame) {k : Nat} (hk : k < 16) :
    f.payload[k]? = some ((Frame.toBits f).extractLsb' (120 - 8 * k) 8) := by
  obtain ⟨j, rfl | rfl⟩ := Nat.even_or_odd' k <;> have hj : j < 8 := by omega
  · obtain ⟨hhi, -⟩ := Frame.payload_getElem?_word f hj
    rw [hhi, Word.hiByte, ← Frame.toBits_extractLsb'_word f hj, extractLsb'_extractLsb' _ (by decide)]
    congr 2
    omega
  · obtain ⟨-, hlo⟩ := Frame.payload_getElem?_word f hj
    rw [hlo, Word.loByte, ← Frame.toBits_extractLsb'_word f hj, extractLsb'_extractLsb' _ (by decide)]
    congr 2
    omega

/-- Settles O50: a word is a range of the 128 bits, and a payload byte is half of that range. -/
theorem frameBitsLayout : Obligations.FrameBitsLayout := fun f =>
  ⟨fun _ h => Frame.toBits_extractLsb'_word f h, fun _ hk => Frame.payload_getElem?_toBits f hk, Frame.ofBits_toBits f⟩

end Sys2Proof

namespace Sys2Proof.Machine

/-! ## The result container -/

theorem Status.ofCode_code (st : Status) : Status.ofCode st.code = some st := by
  cases st <;> rfl

theorem Result.ofBits_toBits (res : Result) : Result.ofBits res.toBits = some res := by
  simp only [Result.ofBits, Result.toBits, Status.ofCode_code, Frame.ofBits_toBits]

/-- Settles O49: the status and the frame are read back; the reserved code is no status. -/
theorem resultContainerRoundTrip : Obligations.ResultContainerRoundTrip :=
  ⟨Result.ofBits_toBits, rfl, rfl, rfl, fun _ _ => rfl⟩

/-! ## The room -/

/-- Settles O8: the room is `CAP − |buf|`, and a `FEED` is accepted exactly when its data fits. -/
theorem roomIsWhatTheNextFeedMayCarry : Obligations.RoomIsWhatTheNextFeedMayCarry := by
  rintro s ⟨hidle, hinv⟩
  have hlen := hinv.buf_length_le
  obtain ⟨-, -, -, -, hroom⟩ := hinv
  rw [hroom, Config.cap]
  refine ⟨by omega, fun data => ⟨_, exec_feed_of_idle hidle data, ?_⟩⟩
  rw [← not_iff_not, ← ne_eq, feed_accepted_iff]
  omega

end Sys2Proof.Machine

namespace Sys2Proof.Machine

/-! ## A whole frame on the wire is emitted -/

/-- The decoder is on its way through the wire form of `f`: nothing is discarded before the frame is pending. -/
def State.ReadingFrame (r : Bool) (f : Frame) (s : State) : Prop :=
  s.buf = Frame.wire f ∧ ∃ w, s.act = .scanning w ∧ s.ScanInv r w ∧ (w.res = none → w.disc = 0)

/-- The byte a scan examines while nothing is discarded is the one behind the candidate frame. -/
theorem index_eq_candidateLength {r : Bool} {s : State} {w : Scan} (hinv : s.ScanInv r w) (hd : w.disc = 0) :
    w.i = candidateLength s.phase s.count := by
  obtain ⟨-, -, hi, hwin, -, -⟩ := hinv
  rw [← State.candidate_length, ← hwin, hd, List.drop_zero, List.length_take_of_le hi]

/-- Inside the wire form of a receivable frame no transition discards anything, but for the one that completes it. -/
theorem stepByte_keeps_frame {r : Bool} {f : Frame} {s : State} {w : Scan} {b : Byte}
    (hf : ∀ x ∈ f.toList, emittableWord r x = true) (ha : s.act = .scanning w) (hd : w.disc = 0)
    (hb : (Frame.wire f)[candidateLength s.phase s.count]? = some b) :
    ∃ w', (stepByte r b s).act = .scanning w' ∧ (w'.res = none → w'.disc = 0) := by
  have hword : ∀ j (h : j < 8), Word.hiByte f[j] ≠ 0xFF ∧ (r = true → Word.loByte f[j] ≠ 0xFF) := fun j h =>
    (emittableWord_iff r _).mp (hf _ (Vector.mem_toList_iff.mpr (Vector.getElem_mem h)))
  have hhigh : ∀ j, j < 8 → candidateLength s.phase s.count = 2 + 2 * j → b ≠ 0xFF := by
    intro j h hlen
    rw [hlen, (Frame.wire_getElem?_word f h).1] at hb
    exact Option.some.inj hb ▸ (hword j h).1
  have hlow : ∀ j, j < 8 → candidateLength s.phase s.count = 3 + 2 * j → r = true → b ≠ 0xFF := by
    intro j h hlen
    rw [hlen, (Frame.wire_getElem?_word f h).2] at hb
    exact Option.some.inj hb ▸ (hword j h).2
  have hmark : s.phase = .AM1 ∨ s.phase = .AM2 → b = 0xFF := by
    rintro (hp | hp) <;> rw [hp] at hb <;> exact (Option.some.inj hb).symm
  have hc : s.count.toNat < 8 := s.count.isLt
  rcases stepByte_cases r ha b with ⟨-, -, h⟩ | ⟨hp, hne, -⟩ | ⟨-, -, h⟩ | ⟨hp, hne, -⟩ | ⟨hp, hff, -⟩ | ⟨-, -, h⟩ |
    ⟨-, -, -, h⟩ | ⟨-, -, -, h⟩
  · exact ⟨w, by rw [h]; exact ha, fun _ => hd⟩
  · exact absurd (hmark (.inl hp)) hne
  · exact ⟨w, by rw [h]; exact ha, fun _ => hd⟩
  · exact absurd (hmark (.inr hp)) hne
  · rcases hp with hp | hp | ⟨hp, hr⟩
    · exact absurd hff (hhigh 0 (by decide) (by rw [hp]; rfl))
    · exact absurd hff (hhigh _ hc (by rw [hp]; rfl))
    · exact absurd hff (hlow _ hc (by rw [hp]; rfl) hr)
  · exact ⟨w, by rw [h]; exact ha, fun _ => hd⟩
  · exact ⟨w, by rw [h]; exact ha, fun _ => hd⟩
  · rw [h]
    exact ⟨_, rfl, nofun⟩

/-- A turn of the scan loop stays on its way through the frame. -/
theorem State.ReadingFrame.scanTurn {r : Bool} {f : Frame} {s t : State} (hs : s.ReadingFrame r f)
    (hf : ∀ x ∈ f.toList, emittableWord r x = true) (ht : scanTurn r s = some t) : t.ReadingFrame r f := by
  obtain ⟨hbuf, w, ha, hinv, hkeep⟩ := hs
  obtain ⟨hbuf', -⟩ := scanTurn_frame ht
  obtain ⟨w₁, ha₁, hinv₁⟩ := scanInv_scanTurn ha hinv ht
  obtain ⟨x, b, hx, he, rfl⟩ := (scanTurn_eq_some_iff r s t).mp ht
  obtain rfl : w = x := by simpa [ha] using hx
  obtain ⟨hres, hb⟩ := (State.examined_eq_some_iff s w b).mp he
  have hd := hkeep hres
  rw [hbuf, index_eq_candidateLength hinv hd] at hb
  obtain ⟨w', ha', hkeep'⟩ := stepByte_keeps_frame hf ha hd hb
  refine ⟨hbuf'.trans hbuf, w₁, ha₁, hinv₁, ?_⟩
  simp only [State.advanceIndex, ha', State.setAct_act, Activity.scanning.injEq] at ha₁
  exact ha₁ ▸ hkeep'

/-- When the scan of the wire form ends, its frame is pending: a candidate frame is never 18 bytes long. -/
theorem State.ReadingFrame.pending {r : Bool} {f : Frame} {s : State} {w : Scan} (hs : s.ReadingFrame r f)
    (ha : s.act = .scanning w) (hend : w.res ≠ none ∨ s.buf.length ≤ w.i) : w.res = some f := by
  obtain ⟨hbuf, x, hx, hinv, hkeep⟩ := hs
  obtain rfl : w = x := by simpa [ha] using hx
  cases hres : w.res with
  | none =>
    have hi := index_eq_candidateLength hinv (hkeep hres)
    have hle := scanInv_at_end hinv hend
    have := candidateLength_le s.phase s.count
    rw [hbuf, Frame.wire_length] at hle
    omega
  | some g =>
    obtain ⟨-, -, -, -, -, hpend⟩ := hinv
    obtain ⟨-, -, -, -, hwire, -⟩ := hpend g hres
    rw [Frame.wire_injective (hbuf.symm.trans hwire)]

/-- R111, R112: a `FEED` that brings the buffer to a receivable frame on the wire emits it. -/
theorem feed_emits_whole_frame {r : Bool} {s : State} {data : List Byte} {f : Frame} (hs : s.AtBoundary r)
    (hwire : s.buf ++ data = Frame.wire f) (hf : ∀ x ∈ f.toList, emittableWord r x = true) :
    (feed r data s).result.status = .frame ∧ (feed r data s).result.frame = f := by
  have hlen : s.buf.length + data.length = 18 := by rw [← List.length_append, hwire, Frame.wire_length]
  rcases feed_cases r data s with ⟨hover, -⟩ | ⟨hfit, u, w, heq, hu, ha, -, -, -, -, hend⟩
  · omega
  have hstart : (openFeed data s).ReadingFrame r f := ⟨hwire, _, rfl, scanInv_openFeed hs.2 hfit, fun _ => rfl⟩
  have hread : u.ReadingFrame r f := by
    rw [hu]
    exact scanLoop_induction (fun _ _ hv ht => hv.scanTurn hf ht) _ _ hstart
  rw [heq, endScan_eq_closeFeed ha, closeFeed_eq, hread.pending ha hend]
  exact ⟨rfl, rfl⟩

/-! ## The pseudo-operations -/

theorem State.BoundaryInv.buf_eq_nil {r : Bool} {s : State} (h : s.BoundaryInv r) (hp : s.phase = .AM1) :
    s.buf = [] := by
  rw [← List.length_eq_zero_iff, h.buf_length, hp]
  rfl

theorem State.BoundaryInv.buf_length_pos {r : Bool} {s : State} (h : s.BoundaryInv r) (hp : s.phase ≠ .AM1) :
    1 ≤ s.buf.length := by
  rw [h.buf_length]
  cases hq : s.phase with
  | AM1 => exact absurd hq hp
  | AM2 => exact le_rfl
  | _ => simp only [candidateLength]; omega

theorem receivableWord_iff (w : Word) : receivableWord w = true ↔ Word.hiByte w ≠ 0xFF := by
  rw [receivableWord, Bool.not_eq_true', isMarker_eq_false_iff]

/-- Settles O55: behind an empty buffer the wire form is the whole buffer; behind any byte it does not fit. -/
theorem sendDeliversItsFrame : Obligations.SendDeliversItsFrame := by
  intro f
  constructor
  · intro hrec
    refine ⟨if_pos (List.all_eq_true.mpr fun w hw => (receivableWord_iff w).mpr (hrec w hw)), fun s hs => ?_⟩
    refine ⟨_, exec_feed_of_idle hs.1 _, fun hp => ?_, fun hp => ?_⟩
    · have hempty := hs.2.buf_eq_nil hp
      refine feed_emits_whole_frame hs (by rw [hempty, List.nil_append]) fun w hw => ?_
      exact (emittableWord_iff _ w).mpr ⟨hrec w hw, nofun⟩
    · have hpos := hs.2.buf_length_pos hp
      refine not_not.mp fun hne => ?_
      have hfit := (feed_accepted_iff _ _ s).mp hne
      rw [Frame.wire_length] at hfit
      omega
  · rintro ⟨w, hw, hff⟩
    refine if_neg fun hall => ?_
    exact (receivableWord_iff w).mp (List.all_eq_true.mp hall w hw) hff

/-- A byte that is no marker, in AM1: it is discarded, and the scan goes on behind it (R132). -/
theorem scanTurn_of_no_marker {r : Bool} {s : State} {i : Nat} {b : Byte} (ha : s.act = .scanning ⟨i, i, none⟩)
    (hp : s.phase = .AM1) (hb : s.buf[i]? = some b) (hne : b ≠ 0xFF) :
    scanTurn r s = some (s.setAct (.scanning ⟨i + 1, i + 1, none⟩)) := by
  refine (scanTurn_eq_some_iff _ _ _).mpr ⟨_, b, ha, (State.examined_eq_some_iff _ _ _).mpr ⟨rfl, hb⟩, ?_⟩
  have hm := (isMarker_eq_false_iff b).mpr hne
  simp only [stepByte, hp, hm, am1OtherBody, State.discardThrough, State.updateScan_scanning ha]
  rfl

/-- All bytes still to be examined are discarded, and the scan ends behind the buffer. -/
theorem scanLoop_of_no_marker {r : Bool} : ∀ (n : Nat) {s : State} {i : Nat}, s.act = .scanning ⟨i, i, none⟩ →
    s.phase = .AM1 → s.buf.length = i + n → 0xFF ∉ s.buf →
    scanLoop r n s = s.setAct (.scanning ⟨s.buf.length, s.buf.length, none⟩)
  | 0, s, i, ha, _, hlen, _ => by
    rw [hlen, Nat.add_zero, ← ha]
    rfl
  | n + 1, s, i, ha, hp, hlen, hff => by
    have hi : i < s.buf.length := by omega
    have hne : s.buf[i] ≠ 0xFF := fun h => hff (h ▸ List.getElem_mem hi)
    have hturn := scanTurn_of_no_marker (r := r) ha hp (List.getElem?_eq_getElem hi) hne
    simp only [scanLoop, hturn]
    exact scanLoop_of_no_marker n rfl hp (by rw [State.setAct_buf]; omega) hff

/-- R132: bytes without a marker leave a session in AM1 as it is. -/
theorem feed_of_no_marker {r : Bool} {s : State} {data : List Byte} (hs : s.AtBoundary r) (hp : s.phase = .AM1)
    (hlen : data.length ≤ 18) (hff : 0xFF ∉ data) : feed r data s = s.setResult ⟨.noFrame, zeroFrame, 18⟩ := by
  have hempty := hs.2.buf_eq_nil hp
  have hfit : s.buf.length + data.length ≤ 18 := by simpa [hempty] using hlen
  have hbuf : (openFeed data s).buf = data := by simp [openFeed, State.bufAppend, hempty]
  have hscan : s.scan = 0#5 := by
    obtain ⟨-, -, -, hscan, -⟩ := hs
    exact BitVec.eq_of_toNat_eq (by rw [hscan, hempty]; rfl)
  have hact : (openFeed data s).act = .scanning ⟨0, 0, none⟩ := by rw [openFeed, hscan]; rfl
  rw [feed_eq_of_fits hs.2 hfit, scanLoop_of_no_marker _ hact hp (by simp [hbuf]) (by rwa [hbuf]), hbuf,
    endScan_eq_closeFeed rfl, closeFeed_eq]
  simp only [State.setAct_buf, hbuf, List.drop_length, List.length_nil, BitVec.sub_self]
  rw [← hscan, ← hempty, ← hs.1]
  rfl

/-- Settles O56: `SKIP k` is a `FEED` of `k` bytes that are no marker. -/
theorem nopAndSkipLeaveTheSession : Obligations.NopAndSkipLeaveTheSession := by
  refine ⟨rfl, fun s k hs hp hk => ⟨_, rfl, ?_⟩⟩
  have hff : (0xFF : Byte) ∉ List.replicate k 0x00 := fun h => absurd (List.eq_of_mem_replicate h) (by decide)
  rw [exec_feed_of_idle hs.1, feed_of_no_marker hs hp (by simpa using hk) hff]
  rfl

end Sys2Proof.Machine

namespace Sys2Proof.Machine

/-! ## A `FEED` that emits a frame -/

/-- An accepted `FEED` at a boundary is the end of a scan of the old buffer with the data behind it, and that scan
meets the invariant. -/
theorem feed_is_end_of_scan {r : Bool} {s : State} {data : List Byte} (hs : s.AtBoundary r)
    (hfit : s.buf.length + data.length ≤ 18) :
    ∃ u w, feed r data s = closeFeed w u ∧ u.ScanInv r w ∧ u.buf = s.buf ++ data := by
  obtain ⟨w, ha, hinv⟩ := scanning_scanLoop (scanning_openFeed hs.2 hfit) data.length
  obtain ⟨hbuf, -⟩ := scanLoop_frame r data.length (s := openFeed data s) rfl
  exact ⟨_, w, by rw [feed_eq_of_fits hs.2 hfit, endScan_eq_closeFeed ha], hinv, hbuf⟩

/-- R111: a `FEED` that emits a frame found the whole frame in the buffer, and nothing more. -/
theorem feed_frame_is_whole_buffer {r : Bool} {s : State} {data : List Byte} (hs : s.AtBoundary r)
    (hst : (feed r data s).result.status = .frame) :
    s.buf ++ data = Frame.wire (feed r data s).result.frame ∧ (feed r data s).buf = [] ∧ (feed r data s).scan = 0 ∧
      (feed r data s).phase = .AM1 := by
  have hfit := (feed_accepted_iff r data s).mp (by rw [hst]; decide)
  obtain ⟨u, w, hfeed, ⟨-, -, -, -, -, hpend⟩, hbuf⟩ := feed_is_end_of_scan hs hfit
  rw [hfeed, closeFeed_eq] at hst ⊢
  cases hres : w.res with
  | none => simp [hres, pendingResult] at hst
  | some f =>
    obtain ⟨hphase, -, hdisc, hi, hwire, -⟩ := hpend f hres
    exact ⟨hbuf ▸ hwire, List.drop_eq_nil_of_le (by omega), by rw [hdisc]; exact BitVec.sub_self _, hphase⟩

/-- Settles O9: the invariant of the scan says what the buffer holds when a frame is pending. -/
theorem frameIsTheWholeBuffer : Obligations.FrameIsTheWholeBuffer := by
  intro r s t data hs ht hst
  obtain ⟨-, rfl⟩ := (feedWith_eq_next_iff r data s t).mp ht
  exact feed_frame_is_whole_buffer hs hst

/-- Settles O10: the scan of the wire form discards nothing before the frame is pending. -/
theorem wholeFrameIsEmitted : Obligations.WholeFrameIsEmitted := by
  intro r s data f hs hwire hf
  exact ⟨_, (feedWith_eq_next_iff r data s _).mpr ⟨hs.1, rfl⟩, feed_emits_whole_frame hs hwire hf⟩

/-! ## Chunks of a stream -/

/-- Settles O11: chunk by chunk, a `FEED` is the `FEED`s of its bytes. -/
theorem chunkingDoesNotMatter : Obligations.ChunkingDoesNotMatter := by
  intro r s t chunks fs hs h
  obtain ⟨res, hsingle⟩ := feedChunks_singleBytes_flatten chunks hs h
  exact ⟨_, hsingle, rfl⟩

/-- Accepted chunks whose bytes fit in one `FEED` deliver the frames of that `FEED` and leave its state, but for the
last result. -/
theorem feedChunks_eq_feed_flatten {r : Bool} {s t : State} {chunks : List (List Byte)} {fs : List Frame}
    (hs : s.AtBoundary r) (hfit : s.buf.length + chunks.flatten.length ≤ 18)
    (h : feedChunks r chunks s = some (fs, t)) :
    fs = (feed r chunks.flatten s).result.frames ∧ t = (feed r chunks.flatten s).setResult t.result := by
  obtain ⟨res, hchunks⟩ := feedChunks_singleBytes_flatten chunks hs h
  obtain ⟨res', hwhole⟩ := feedChunks_singleBytes_feed hs hfit
  rw [hwhole, Option.some.injEq, Prod.mk.injEq] at hchunks
  obtain ⟨hfs, ht⟩ := hchunks
  exact ⟨hfs.symm, (congrArg (State.setResult · t.result) ht).symm⟩

/-- Settles O12: the chunks do what one `FEED` of the whole frame does, and that one emits it. -/
theorem anyChunkingOfAFrameDeliversIt : Obligations.AnyChunkingOfAFrameDeliversIt := by
  intro r s t chunks fs f hs hempty hbytes hf h
  have hwire : s.buf ++ chunks.flatten = Frame.wire f := by rw [hempty, List.nil_append, hbytes]
  have hfit : s.buf.length + chunks.flatten.length ≤ 18 := by
    rw [← List.length_append, hwire, Frame.wire_length]
  obtain ⟨hst, hframe⟩ := feed_emits_whole_frame hs hwire hf
  obtain ⟨-, hbuf, -, hphase⟩ := feed_frame_is_whole_buffer hs hst
  obtain ⟨rfl, ht⟩ := feedChunks_eq_feed_flatten hs hfit h
  rw [ht]
  exact ⟨by simp only [Result.frames, hst, hframe], hbuf, hphase⟩

/-! ## A `FEED` of no bytes and one of too many -/

/-- At a boundary the empty `FEED` has nothing to examine (R110). -/
theorem feed_nil {r : Bool} {s : State} (hs : s.AtBoundary r) : feed r [] s = s.returnNoFrame := by
  have hlen := hs.2.buf_length_le
  have hcur : s.scan.toNat = s.buf.length := by
    obtain ⟨-, -, -, hcur, -⟩ := hs
    exact hcur
  have hbuf : (openFeed [] s).buf = s.buf := List.append_nil _
  rw [feed_eq_of_fits hs.2 (by rw [List.length_nil]; omega), ← openFeed_settled_at_start hs []]
  exact endScan_eq_settled (s := openFeed [] s) rfl (by rw [hbuf, hcur])

/-- Settles O7: the scan of the empty `FEED` ends where it begins. -/
theorem emptyFeedIsNoOp : Obligations.EmptyFeedIsNoOp := by
  intro s hs
  rw [exec_feed_of_idle hs.1, feed_nil hs]
  rfl

/-- Settles O3: the one error of the block writes the result alone. -/
theorem overfillingFeedIsRejectedWhole : Obligations.OverfillingFeedIsRejectedWhole := by
  intro s data hidle _ hover
  have hfeed : feed Config.resyncOnLow data s = s.returnCapacityExceeded := if_pos hover
  rw [exec_feed_of_idle hidle, hfeed]
  rfl

/-! ## `INIT` -/

/-- `INIT` completes in every session that is not inside an operation (R101, R206). -/
theorem exec_init_of_not_scanning {s : State} (h : ∀ w, s.act ≠ .scanning w) : exec .init s = .next s.startSession := by
  show execInit s = _
  unfold execInit
  cases ha : s.act with
  | scanning w => exact absurd ha (h w)
  | idle => rfl
  | uninitialised => rfl

/-- Settles O2: the state `INIT` leaves is idle, so a second `INIT` runs, and the requests are all it keeps. -/
theorem initStartsTheSession : Obligations.InitStartsTheSession :=
  fun _ hs => ⟨exec_init_of_not_scanning hs, exec_init_of_not_scanning nofun⟩

/-! ## The transition a selector names -/

/-- Every transition of the instruction set has a selector (30_encoding.md R80). -/
theorem exists_selector_of_transition {i : Instr} (h : i.request = none) :
    ∃ p m, decodeSelector (selectorOf p m) = some i := by
  cases i with
  | init => cases h
  | feed data => cases h
  | am1Other => exact ⟨.AM1, false, rfl⟩
  | am1Mark => exact ⟨.AM1, true, rfl⟩
  | am2Other => exact ⟨.AM2, false, rfl⟩
  | am2Mark => exact ⟨.AM2, true, rfl⟩
  | whData => exact ⟨.WH, false, rfl⟩
  | whMark => exact ⟨.WH, true, rfl⟩
  | wlData => exact ⟨.WL, false, rfl⟩
  | wlFf => exact ⟨.WL, true, rfl⟩
  | nwhData => exact ⟨.NWH, false, rfl⟩
  | nwhMark => exact ⟨.NWH, true, rfl⟩

/-- The selector of every phase and marker class names a transition (30_encoding.md R80). -/
theorem exists_transition_of_selector (p : Phase) (m : Bool) : ∃ i, decodeSelector (selectorOf p m) = some i := by
  cases p <;> cases m <;> exact ⟨_, rfl⟩

theorem State.examined_eq_none_iff (s : State) (w : Scan) :
    s.examined w = none ↔ w.res ≠ none ∨ s.buf.length ≤ w.i := by
  unfold State.examined State.bufAt
  cases w.res <;> simp

section
variable (p : Phase) (m : Bool) (body : Byte → State → State) {s : State} {w : Scan} {b : Byte}

theorem runTransition_of_not_scanning (h : ∀ w, s.act ≠ .scanning w) :
    runTransition p m body s = .refused .notScanning := by
  unfold runTransition
  cases ha : s.act with
  | scanning w => exact absurd ha (h w)
  | idle => rfl
  | uninitialised => rfl

theorem runTransition_of_no_byte (ha : s.act = .scanning w) (he : s.examined w = none) :
    runTransition p m body s = .refused .noByteToExamine := by
  simp only [runTransition, ha, he]

theorem runTransition_of_byte (ha : s.act = .scanning w) (he : s.examined w = some b) :
    runTransition p m body s =
      if selector s.phase b = selectorOf p m then .next (body b s) else .refused .notSelected := by
  simp only [runTransition, ha, he]

end

/-- A transition applies its body in its own phase to a byte of its own class only. -/
theorem runTransition_congr {p : Phase} {m : Bool} {f g : Byte → State → State}
    (h : ∀ b s, s.phase = p → isMarker b = m → f b s = g b s) (s : State) :
    runTransition p m f s = runTransition p m g s := by
  by_cases hs : ∃ w, s.act = .scanning w
  · obtain ⟨w, ha⟩ := hs
    cases he : s.examined w with
    | none => rw [runTransition_of_no_byte p m f ha he, runTransition_of_no_byte p m g ha he]
    | some b =>
      rw [runTransition_of_byte p m f ha he, runTransition_of_byte p m g ha he]
      refine if_ctx_congr Iff.rfl (fun hsel => ?_) fun _ => rfl
      obtain ⟨hp, hm⟩ := (selectorOf_inj _ _ _ _).mp hsel
      rw [h b s hp hm]
  · have ha := not_exists.mp hs
    rw [runTransition_of_not_scanning p m f ha, runTransition_of_not_scanning p m g ha]

/-- The instruction a selector names is `STEP` under that selector (40_session.md R106, 41_frame_decoder.md R130). -/
theorem exec_of_decodeSelector {p : Phase} {m : Bool} {i : Instr} (h : decodeSelector (selectorOf p m) = some i)
    (s : State) : exec i s = runTransition p m (stepByte Config.resyncOnLow) s := by
  cases p <;> cases m <;> cases h <;>
    exact runTransition_congr (fun b u hp hm => by simp only [stepByte, hp, hm]) s

/-- Settles O37: a transition is `STEP` under its one selector, and refuses wherever the scan has not selected it. -/
theorem unselectedTransitionsAreRefused : Obligations.UnselectedTransitionsAreRefused := by
  intro i s hi
  obtain ⟨p, m, hsel⟩ := exists_selector_of_transition hi
  rw [exec_of_decodeSelector hsel]
  refine ⟨runTransition_of_not_scanning p m _, fun w ha hend => ?_, fun w b ha hres hb hne => ?_⟩
  · exact runTransition_of_no_byte p m _ ha ((State.examined_eq_none_iff s w).mpr hend)
  · have hother : selector s.phase b ≠ selectorOf p m := fun h => hne (h ▸ hsel)
    rw [runTransition_of_byte p m _ ha ((State.examined_eq_some_iff s w b).mpr ⟨hres, hb⟩), if_neg hother]

/-- The selected transition completes, and is `STEP` of the examined byte. -/
theorem exec_selected {s : State} {w : Scan} {b : Byte} (ha : s.act = .scanning w) (he : s.examined w = some b) :
    ∃ i, decodeSelector (selector s.phase b) = some i ∧ exec i s = .next (stepByte Config.resyncOnLow b s) := by
  obtain ⟨i, hsel⟩ := exists_transition_of_selector s.phase (isMarker b)
  refine ⟨i, hsel, ?_⟩
  rw [exec_of_decodeSelector hsel, runTransition_of_byte _ _ _ ha he]
  exact if_pos rfl

/-- The selector word with the marker bit written out (30_encoding.md R71, R80). -/
theorem selector_eq (p : Phase) (b : Byte) : selector p b = p.code ++ (if b = 0xFF then 1#1 else 0#1) := by
  unfold selector selectorOf
  by_cases hb : b = 0xFF
  · rw [(isMarker_eq_true_iff b).mpr hb, if_pos hb]
    rfl
  · rw [(isMarker_eq_false_iff b).mpr hb, if_neg hb]
    rfl

/-- Settles O34: the step is the turn of the scan loop, and the turn is the selected transition. -/
theorem stepAppliesTheSelectedTransition : Obligations.StepAppliesTheSelectedTransition := by
  intro s w b ha hres hb
  have he := (State.examined_eq_some_iff s w b).mpr ⟨hres, hb⟩
  obtain ⟨i, hsel, hexec⟩ := exec_selected ha he
  obtain ⟨hbuf, hscan, hresult, hreq, w', ha', hi'⟩ := stepByte_frame Config.resyncOnLow ha b
  have hstep := step_of_scanTurn_eq_some ((scanTurn_eq_some_iff _ s _).mpr ⟨w, b, ha, he, rfl⟩)
  refine ⟨i, _, w', selector_eq s.phase b ▸ hsel, hexec, ha', hi', hbuf, hscan, hresult, hreq, ?_⟩
  rw [hstep, State.advanceIndex, ha', ← hi']
  rfl

/-- What a transition writes into `disc` (R107) and `count` (R142). -/
theorem stepByte_disc_count (r : Bool) {s : State} {w : Scan} (ha : s.act = .scanning w) (b : Byte) :
    ∃ w', (stepByte r b s).act = .scanning w' ∧ (w'.disc = w.disc ∨ w'.disc = w.i ∨ w'.disc = w.i + 1) ∧
      ((stepByte r b s).count = s.count ∨ (stepByte r b s).count.toNat = s.count.toNat + 1 ∨
        (stepByte r b s).count = 0) := by
  rcases stepByte_cases r ha b with ⟨-, -, h⟩ | ⟨-, -, h⟩ | ⟨-, -, h⟩ | ⟨-, -, h⟩ | ⟨-, -, h⟩ | ⟨-, -, h⟩ |
    ⟨-, -, hc, h⟩ | ⟨-, -, -, h⟩ <;> rw [h]
  · exact ⟨w, ha, .inl rfl, .inl rfl⟩
  · exact ⟨_, rfl, .inr (.inr rfl), .inl rfl⟩
  · exact ⟨w, ha, .inl rfl, .inr (.inr rfl)⟩
  · exact ⟨_, rfl, .inr (.inr rfl), .inl rfl⟩
  · exact ⟨_, rfl, .inr (.inl rfl), .inl rfl⟩
  · exact ⟨w, ha, .inl rfl, .inl rfl⟩
  · exact ⟨w, ha, .inl rfl, .inr (.inl (count_succ_toNat hc))⟩
  · exact ⟨_, rfl, .inr (.inr rfl), .inr (.inr rfl)⟩

/-- Settles O35: the three values of `disc` are in order when `disc` starts at most at the index. -/
theorem discardMarkerNeverDecreases : Obligations.DiscardMarkerNeverDecreases := by
  intro i s t w hi ha hd ht
  obtain ⟨p, m, hsel⟩ := exists_selector_of_transition hi
  rw [exec_of_decodeSelector hsel] at ht
  obtain ⟨-, b, -, -, -, -, rfl⟩ := (runTransition_eq_next_iff _ _ _ _ _).mp ht
  obtain ⟨w', ha', hdisc, hcount⟩ := stepByte_disc_count Config.resyncOnLow ha b
  exact ⟨w', ha', by omega, by omega, hdisc, hcount⟩

/-- Settles O40: with no byte to examine the step is the end of the scan. -/
theorem stepEndsTheScan : Obligations.StepEndsTheScan := by
  intro s w ha hend
  have hnone := (scanTurn_eq_none_of_scanning (r := Config.resyncOnLow) ha).mpr hend
  rw [step_scanning ha, hnone, Option.getD_none]
  exact congrArg Host.Outcome.next (endScan_scanning ha)

end Sys2Proof.Machine

namespace Sys2Proof

/-! ## The words that can be emitted -/

theorem Word.hiByte_ne_marker_iff (w : Word) : Word.hiByte w ≠ 0xFF ↔ w.toNat < 0xFF00 := by
  have hlt := w.isLt
  have hval : (Word.hiByte w).toNat = w.toNat / 256 := by
    rw [Word.hiByte, BitVec.extractLsb'_toNat, Nat.shiftRight_eq_div_pow]
    omega
  rw [ne_eq, BitVec.toNat_eq, hval]
  show w.toNat / 256 ≠ 255 ↔ _
  omega

end Sys2Proof

namespace Sys2Proof.Machine

/-- R143 in numbers: the words a frame can hold. -/
theorem emittableWord_iff_toNat_lt (r : Bool) (w : Word) :
    emittableWord r w = true ↔ w.toNat < 0xFF00 ∧ (r = true → w.extractLsb' 0 8 ≠ 0xFF) := by
  rw [emittableWord_iff, Word.hiByte_ne_marker_iff]
  rfl

/-- A frame that a `FEED` emits at a boundary holds words that can be emitted. -/
theorem feed_frame_emittable {r : Bool} {s : State} {data : List Byte} (hs : s.AtBoundary r)
    (hst : (feed r data s).result.status = .frame) {j : Nat} (h : j < 8) :
    emittableWord r (feed r data s).result.frame[j] = true := by
  obtain ⟨-, -, -, -, hlegal, -⟩ := atBoundary_feed hs data
  rw [Result.legal, hst] at hlegal
  exact List.all_eq_true.mp hlegal _ (Vector.mem_toList_iff.mpr (Vector.getElem_mem h))

/-- Settles O53: a boundary's result is legal, and a frame of eight times the same receivable word is emitted. -/
theorem unreceivableWords : Obligations.UnreceivableWords := by
  refine ⟨fun r s t data hs ht hst j h => ?_, fun r w hhi hlo => ?_⟩
  · obtain ⟨-, rfl⟩ := (feedWith_eq_next_iff r data s t).mp ht
    exact (emittableWord_iff_toNat_lt r _).mp (feed_frame_emittable hs hst h)
  · have hwords : ∀ x ∈ (Vector.replicate 8 w).toList, emittableWord r x = true := fun x hx => by
      rw [Vector.toList_replicate] at hx
      rw [List.eq_of_mem_replicate hx]
      exact (emittableWord_iff_toNat_lt r w).mpr ⟨hhi, hlo⟩
    exact wholeFrameIsEmitted r State.reset _ _ (reset_atBoundary r) rfl hwords

/-! ## The transitions, case by case

The equations of `STEP` for high and low bytes stand above, with the repeated scan. -/

section
variable {r : Bool} {s : State} {w : Scan} {b : Byte}

theorem stepByte_of_firstMarker (hp : s.phase = .AM1) (hb : b = 0xFF) :
    stepByte r b s = { s with phase := .AM2 } := by
  have hm := (isMarker_eq_true_iff b).mpr hb
  simp only [stepByte, hp, hm]
  rfl

theorem discardThrough_of_scanning (ha : s.act = .scanning w) :
    s.discardThrough = { s with act := .scanning { w with disc := w.i + 1 } } := by
  simp only [State.discardThrough, State.updateScan_scanning ha]
  rfl

theorem stepByte_of_noMarker (ha : s.act = .scanning w) (hp : s.phase = .AM1) (hb : b ≠ 0xFF) :
    stepByte r b s = { s with act := .scanning { w with disc := w.i + 1 } } := by
  have hm := (isMarker_eq_false_iff b).mpr hb
  rw [← discardThrough_of_scanning ha]
  simp only [stepByte, hp, hm]
  rfl

theorem stepByte_of_secondMarker (hp : s.phase = .AM2) (hb : b = 0xFF) :
    stepByte r b s = { s with phase := .WH, count := 0 } := by
  have hm := (isMarker_eq_true_iff b).mpr hb
  simp only [stepByte, hp, hm]
  rfl

theorem stepByte_of_loneMarker (ha : s.act = .scanning w) (hp : s.phase = .AM2) (hb : b ≠ 0xFF) :
    stepByte r b s = { s with phase := .AM1, act := .scanning { w with disc := w.i + 1 } } := by
  have hm := (isMarker_eq_false_iff b).mpr hb
  simp only [stepByte, hp, hm, am2OtherBody, discardThrough_of_scanning ha]
  rfl

theorem resynchronize_of_scanning (ha : s.act = .scanning w) :
    resynchronize s = { s with phase := .AM2, act := .scanning { w with disc := w.i } } := by
  simp only [resynchronize, State.discardBefore, State.updateScan_scanning ha]
  rfl

theorem stepByte_of_markerForHighByte (ha : s.act = .scanning w) (hp : s.phase = .WH ∨ s.phase = .NWH)
    (hb : b = 0xFF) : stepByte r b s = { s with phase := .AM2, act := .scanning { w with disc := w.i } } := by
  have hm := (isMarker_eq_true_iff b).mpr hb
  rw [← resynchronize_of_scanning ha]
  rcases hp with hp | hp <;> simp only [stepByte, hp, hm] <;> rfl

/-- A transition completes in a scan whose byte selects it, and is then `STEP` (40_session.md R106). -/
theorem exec_of_selected {p : Phase} {m : Bool} {i : Instr} (hsel : decodeSelector (selectorOf p m) = some i)
    (ha : s.act = .scanning w) (hres : w.res = none) (hb : s.buf[w.i]? = some b) (hp : s.phase = p)
    (hm : isMarker b = m) : exec i s = .next (stepByte Config.resyncOnLow b s) := by
  rw [exec_of_decodeSelector hsel]
  exact (runTransition_eq_next_iff _ _ _ _ _).mpr
    ⟨w, b, ha, (State.examined_eq_some_iff s w b).mpr ⟨hres, hb⟩, hp, hm, rfl⟩

variable (ha : s.act = .scanning w) (hres : w.res = none) (hb : s.buf[w.i]? = some b)
include ha hres hb

theorem exec_of_marker {i : Instr} (hsel : decodeSelector (selectorOf s.phase true) = some i) (hff : b = 0xFF) :
    exec i s = .next (stepByte Config.resyncOnLow b s) :=
  exec_of_selected hsel ha hres hb rfl ((isMarker_eq_true_iff b).mpr hff)

theorem exec_of_other {i : Instr} (hsel : decodeSelector (selectorOf s.phase false) = some i) (hne : b ≠ 0xFF) :
    exec i s = .next (stepByte Config.resyncOnLow b s) :=
  exec_of_selected hsel ha hres hb rfl ((isMarker_eq_false_iff b).mpr hne)

end

/-- Settles O24: the scan has selected the transition, and a first marker byte is kept. -/
theorem am1MarkResult : Obligations.Am1MarkResult := by
  refine ⟨fun s w b ha hres hb hp hff => ?_, _, rfl, rfl, rfl, rfl, rfl⟩
  rw [exec_of_marker ha hres hb (by rw [hp]; rfl) hff, stepByte_of_firstMarker hp hff]

/-- Settles O25: the scan has selected the transition, and the byte is discarded. -/
theorem am1OtherResult : Obligations.Am1OtherResult := by
  refine ⟨fun s w b ha hres hb hp hne => ?_, _, rfl, rfl, rfl, rfl, rfl⟩
  rw [exec_of_other ha hres hb (by rw [hp]; rfl) hne, stepByte_of_noMarker ha hp hne]

/-- Settles O26: the scan has selected the transition, and both marker bytes are kept. -/
theorem am2MarkResult : Obligations.Am2MarkResult := by
  refine ⟨fun s w b ha hres hb hp hff => ?_, _, rfl, rfl, rfl, rfl, rfl⟩
  rw [exec_of_marker ha hres hb (by rw [hp]; rfl) hff, stepByte_of_secondMarker hp hff]

/-- Settles O27: the scan has selected the transition, and the lone marker byte is discarded with the byte. -/
theorem am2OtherResult : Obligations.Am2OtherResult := by
  refine ⟨fun s w b ha hres hb hp hne => ?_, _, rfl, rfl, rfl, rfl, rfl⟩
  rw [exec_of_other ha hres hb (by rw [hp]; rfl) hne, stepByte_of_loneMarker ha hp hne]

/-- Settles O29: the scan has selected the transition, and the byte is the high byte of the first word. -/
theorem whDataResult : Obligations.WhDataResult := by
  refine ⟨fun s w b ha hres hb hp hne => ?_, _, rfl, rfl, rfl, rfl, rfl⟩
  rw [exec_of_other ha hres hb (by rw [hp]; rfl) hne, stepByte_of_highByte (.inl hp) hne]

/-- Settles O30: a low byte below the eighth word, and at it. -/
theorem wlDataResult : Obligations.WlDataResult := by
  refine ⟨fun s w b ha hres hb hp hne hc => ?_, fun s w b ha hres hb hp hne hc => ?_, _, rfl, rfl, rfl, rfl⟩ <;>
    rw [exec_of_other ha hres hb (by rw [hp]; rfl) hne, stepByte_of_lowByte hp (absurd · hne)]
  · exact congrArg Host.Outcome.next (wlDataBody_of_count_lt b s hc)
  · exact congrArg Host.Outcome.next (wlDataBody_of_count_eq ha b hc)

/-- Settles O31: with `RESYNC_ON_LOW` false `0xFF` is a low byte like any other; in the variant it is a marker. -/
theorem wlFfResult : Obligations.WlFfResult := by
  refine ⟨fun s w b ha hres hb hp hff hc => ?_, fun s w b ha hres hb hp hff hc => ?_,
    fun s w b ha hres hb hp hff => ?_, fun r => ?_⟩
  · rw [exec_of_marker ha hres hb (by rw [hp]; rfl) hff, stepByte_of_lowByte hp fun _ => rfl, hff]
    exact congrArg Host.Outcome.next (wlDataBody_of_count_lt 0xFF s hc)
  · rw [exec_of_marker ha hres hb (by rw [hp]; rfl) hff, stepByte_of_lowByte hp fun _ => rfl, hff]
    exact congrArg Host.Outcome.next (wlDataBody_of_count_eq ha 0xFF hc)
  · have he := (State.examined_eq_some_iff s w b).mpr ⟨hres, hb⟩
    have hm := (isMarker_eq_true_iff b).mpr hff
    exact (runTransition_eq_next_iff _ _ _ _ _).mpr ⟨w, b, ha, he, hp, hm, (resynchronize_of_scanning ha).symm⟩
  · cases r with
    | false => exact ⟨_, rfl, fun _ => ⟨rfl, rfl, rfl, rfl⟩, nofun⟩
    | true => exact ⟨_, rfl, nofun, fun _ => ⟨rfl, rfl⟩⟩

/-- Settles O32: the scan has selected the transition, which resynchronizes. -/
theorem nwhMarkResult : Obligations.NwhMarkResult := by
  refine ⟨fun s w b ha hres hb hp hff => ?_, _, rfl, rfl, rfl, rfl, rfl⟩
  rw [exec_of_marker ha hres hb (by rw [hp]; rfl) hff, stepByte_of_markerForHighByte ha (.inr hp) hff]

/-- Settles O33: the scan has selected the transition, and the byte is the high byte of the next word. -/
theorem nwhDataResult : Obligations.NwhDataResult := by
  refine ⟨fun s w b ha hres hb hp hne => ?_, _, rfl, rfl, rfl, rfl⟩
  rw [exec_of_other ha hres hb (by rw [hp]; rfl) hne, stepByte_of_highByte (.inr hp) hne]

/-! ## `WH` and `NWH` -/

/-- Two transitions of the same marker class, each in its own phase in a scan at the same place, have the same outcome
if their bodies make the same of every byte. -/
theorem runTransition_congr_phase {p q : Phase} {m : Bool} {f g : Byte → State → State} {s u : State}
    (hp : s.phase = p) (hq : u.phase = q) (hact : u.act = s.act) (hbuf : s.buf = u.buf) (h : ∀ b, f b s = g b u) :
    runTransition p m f s = runTransition q m g u := by
  by_cases hs : ∃ w, s.act = .scanning w
  · obtain ⟨w, ha⟩ := hs
    have hau := hact.trans ha
    cases he : s.examined w with
    | none =>
      rw [runTransition_of_no_byte p m f ha he, runTransition_of_no_byte q m g hau (examined_congr hbuf w ▸ he)]
    | some b =>
      rw [runTransition_of_byte p m f ha he, runTransition_of_byte q m g hau (examined_congr hbuf w ▸ he), h b]
      refine if_congr ?_ rfl rfl
      simp only [selector, selectorOf_inj, hp, hq, true_and]
  · have ha := not_exists.mp hs
    rw [runTransition_of_not_scanning p m f ha, runTransition_of_not_scanning q m g (hact ▸ ha)]

theorem resynchronize_setPhase (s : State) (p : Phase) : resynchronize (s.setPhase p) = resynchronize s := by
  cases ha : s.act <;> simp only [resynchronize, State.discardBefore, State.updateScan, State.setPhase_act, ha] <;> rfl

/-- Settles O36: a resynchronization and a high byte overwrite the phase, which is all that differs. -/
theorem highBytePhasesBehaveAlike : Obligations.HighBytePhasesBehaveAlike := by
  refine fun s => ⟨runTransition_congr_phase rfl rfl rfl rfl fun _ => ?_,
    runTransition_congr_phase rfl rfl rfl rfl fun _ => rfl⟩
  exact (resynchronize_setPhase s .WH).trans (resynchronize_setPhase s .NWH).symm

/-! ## A started session never stops -/

theorem feed_act_of_idle {s : State} (h : s.act = .idle) (r : Bool) (data : List Byte) :
    (feed r data s).act = .idle := by
  rcases feed_cases r data s with ⟨-, hfeed⟩ | ⟨-, u, w, hfeed, -, ha, -⟩
  · rw [hfeed]
    exact h
  · rw [hfeed, endScan_scanning ha]

/-- A request of the host completes in an idle session and leaves it idle. -/
theorem exec_request_of_idle {s : State} (h : s.act = .idle) (req : Request) :
    ∃ t, exec req.decode s = .next t ∧ t.act = .idle := by
  rcases BitVec.eq_zero_or_eq_one req.op with hop | hop
  · rw [Request.decode_of_op_eq_zero hop]
    exact ⟨_, exec_init_of_not_scanning (by simp [h]), rfl⟩
  · rw [Request.decode_of_op_eq_one hop]
    exact ⟨_, exec_feed_of_idle h _, feed_act_of_idle h _ _⟩

/-- Settles O41: a turn of the scan goes on scanning, its end and every request leave the session idle. -/
theorem startedSessionNeverStops : Obligations.StartedSessionNeverStops := by
  intro s hs
  cases ha : s.act with
  | uninitialised => exact absurd ha hs
  | scanning w =>
    refine ⟨_, step_scanning ha, ?_⟩
    cases hturn : scanTurn Config.resyncOnLow s with
    | some t =>
      obtain ⟨-, -, -, -, -, w', -, ha', -⟩ := scanTurn_frame hturn
      simp [ha']
    | none => simp [endScan_scanning ha]
  | idle =>
    have hstep := step_not_scanning (s := s) (by simp [ha])
    cases hreq : s.requests with
    | nil => exact ⟨s, by simp only [hstep, stepRequest, State.takeRequest, hreq], hs⟩
    | cons req rs =>
      obtain ⟨t, ht, hidle⟩ := exec_request_of_idle (s := s.setRequests rs) ha req
      exact ⟨t, by rw [hstep, stepRequest_cons hreq, ht], by simp [hidle]⟩

/-! ## Runs of marker bytes, fed one at a time -/

/-- A `FEED` of one byte that completes no frame answers `NO_FRAME`, with the registers its transition leaves. -/
theorem feed_byte_registers {r : Bool} {s u : State} {w : Scan} {b : Byte} (hs : s.AtBoundary r)
    (hstep : stepByte r b (openFeed [b] s) = u) (hact : u.act = .scanning w) (hres : w.res = none) :
    (feed r [b] s).result.status = .noFrame ∧ (feed r [b] s).phase = u.phase ∧ (feed r [b] s).count = u.count ∧
      (feed r [b] s).hi = u.hi := by
  have hlen := hs.2.buf_length_le
  have hcur : s.scan.toNat = s.buf.length := by
    obtain ⟨-, -, -, hcur, -⟩ := hs
    exact hcur
  have hbyte : (openFeed [b] s).buf[s.scan.toNat]? = some b := by
    simp [openFeed, State.bufAppend, hcur]
  have hturn : scanTurn r (openFeed [b] s) = some (u.setAct (.scanning { w with i := w.i + 1 })) := by
    refine (scanTurn_eq_some_iff _ _ _).mpr
      ⟨_, b, rfl, (State.examined_eq_some_iff _ _ _).mpr ⟨rfl, hbyte⟩, ?_⟩
    simp only [hstep, State.advanceIndex, hact]
  rw [feed_eq_of_fits hs.2 (by rw [List.length_singleton]; omega), List.length_singleton]
  simp only [scanLoop, hturn]
  rw [endScan_eq_closeFeed (State.setAct_act _ _), closeFeed_eq]
  simp only [hres]
  exact ⟨rfl, rfl, rfl, rfl⟩

section
variable {r : Bool} {s : State} (hs : s.AtBoundary r)
include hs

theorem feed_firstMarker (hp : s.phase = .AM1) :
    (feed r [0xFF] s).result.status = .noFrame ∧ (feed r [0xFF] s).phase = .AM2 := by
  obtain ⟨hst, hphase, -⟩ := feed_byte_registers hs (stepByte_of_firstMarker hp rfl) rfl rfl
  exact ⟨hst, hphase⟩

theorem feed_secondMarker (hp : s.phase = .AM2) :
    (feed r [0xFF] s).result.status = .noFrame ∧ (feed r [0xFF] s).phase = .WH := by
  obtain ⟨hst, hphase, -⟩ := feed_byte_registers hs (stepByte_of_secondMarker hp rfl) rfl rfl
  exact ⟨hst, hphase⟩

theorem feed_thirdMarker (hp : s.phase = .WH) :
    (feed r [0xFF] s).result.status = .noFrame ∧ (feed r [0xFF] s).phase = .AM2 := by
  obtain ⟨hst, hphase, -⟩ := feed_byte_registers hs (stepByte_of_markerForHighByte rfl (.inl hp) rfl) rfl rfl
  exact ⟨hst, hphase⟩

theorem feed_byte_after_loneMarker (hp : s.phase = .AM2) {b : Byte} (hb : b ≠ 0xFF) :
    (feed r [b] s).result.status = .noFrame ∧ (feed r [b] s).phase = .AM1 := by
  obtain ⟨hst, hphase, -⟩ := feed_byte_registers hs (stepByte_of_loneMarker rfl hp hb) rfl rfl
  exact ⟨hst, hphase⟩

theorem feed_byte_after_marker (hp : s.phase = .WH) {b : Byte} (hb : b ≠ 0xFF) :
    (feed r [b] s).result.status = .noFrame ∧ (feed r [b] s).phase = .WL ∧ (feed r [b] s).count = 0 ∧
      (feed r [b] s).hi = b := by
  obtain ⟨hst, hphase, hcount, hhi⟩ := feed_byte_registers hs (stepByte_of_highByte (.inl hp) hb) rfl rfl
  obtain ⟨-, -, hleg, -⟩ := hs
  exact ⟨hst, hphase, hcount.trans ((State.legalRegisters_of_WH hp).mp hleg), hhi⟩

end

/-- One more byte at the end of a sequence of chunks, where it completes no frame. -/
theorem feedChunks_singleBytes_snoc {r : Bool} {bytes : List Byte} {b : Byte} {s t : State} {fs : List Frame}
    (h : feedChunks r (singleBytes bytes) s = some (fs, t)) (ht : t.act = .idle)
    (hst : (feed r [b] t).result.status = .noFrame) :
    feedChunks r (singleBytes (bytes ++ [b])) s = some (fs, feed r [b] t) := by
  have hlast : feedChunks r [[b]] t = some ([], feed r [b] t) :=
    feedChunks_cons_eq_some_iff.mpr ⟨ht, by simp [hst], [], rfl, by simp [Result.frames, hst]⟩
  rw [singleBytes, List.map_append, ← List.append_nil fs]
  exact feedChunks_append hlast _ h

/-- R135, R144: marker bytes one at a time from AM1 deliver no frame; an odd number of them ends behind one marker
byte, an even number behind two. -/
theorem feedChunks_markers {r : Bool} {s : State} (hs : s.AtBoundary r) (hp : s.phase = .AM1) {k : Nat} (hk : 1 ≤ k) :
    ∃ t, feedChunks r (singleBytes (List.replicate k 0xFF)) s = some ([], t) ∧ t.AtBoundary r ∧
      (k % 2 = 1 ∧ t.phase = .AM2 ∨ k % 2 = 0 ∧ t.phase = .WH) := by
  induction k, hk using Nat.le_induction with
  | base =>
    obtain ⟨hst, hphase⟩ := feed_firstMarker hs hp
    exact ⟨_, feedChunks_singleBytes_snoc (bytes := []) rfl hs.1 hst, atBoundary_feed hs _, .inl ⟨rfl, hphase⟩⟩
  | succ k _ ih =>
    obtain ⟨t, ht, hbound, hpar⟩ := ih
    rw [List.replicate_succ']
    rcases hpar with ⟨hodd, hpt⟩ | ⟨heven, hpt⟩
    · obtain ⟨hst, hphase⟩ := feed_secondMarker hbound hpt
      exact ⟨_, feedChunks_singleBytes_snoc ht hbound.1 hst, atBoundary_feed hbound _, .inr ⟨by omega, hphase⟩⟩
    · obtain ⟨hst, hphase⟩ := feed_thirdMarker hbound hpt
      exact ⟨_, feedChunks_singleBytes_snoc ht hbound.1 hst, atBoundary_feed hbound _, .inl ⟨by omega, hphase⟩⟩

section
variable {r : Bool} {s : State} (h : s.BoundaryInv r)
include h

theorem State.BoundaryInv.buf_of_AM2 (hp : s.phase = .AM2) : s.buf = [0xFF] := by
  obtain ⟨hbuf, -⟩ := h
  rw [hbuf, State.candidate, hp]

theorem State.BoundaryInv.buf_of_WH (hp : s.phase = .WH) : s.buf = [0xFF, 0xFF] := by
  obtain ⟨hbuf, -⟩ := h
  rw [hbuf, State.candidate, hp]

theorem State.BoundaryInv.buf_of_first_highByte (hp : s.phase = .WL) (hc : s.count = 0) :
    s.buf = [0xFF, 0xFF, s.hi] := by
  obtain ⟨hbuf, -⟩ := h
  rw [hbuf, State.candidate, hp, State.completedWords, hc]
  rfl

end

/-- Settles O54: the run of marker bytes leaves one or two of them, and the byte behind it decides. -/
theorem markerRunBeforeAFrame : Obligations.MarkerRunBeforeAFrame := by
  intro r s k b hs hp hk hb
  obtain ⟨t, ht, hbound, ⟨hodd, hpt⟩ | ⟨heven, hpt⟩⟩ := feedChunks_markers hs hp hk
  · obtain ⟨hst, hphase⟩ := feed_byte_after_loneMarker hbound hpt hb
    refine ⟨_, feedChunks_singleBytes_snoc ht hbound.1 hst, fun h => by omega, fun _ => ⟨hphase, ?_⟩⟩
    exact (atBoundary_feed hbound [b]).2.buf_eq_nil hphase
  · obtain ⟨hst, hphase, hcount, hhi⟩ := feed_byte_after_marker hbound hpt hb
    refine ⟨_, feedChunks_singleBytes_snoc ht hbound.1 hst, fun _ => ⟨hphase, hcount, hhi, ?_⟩, fun h => by omega⟩
    rw [(atBoundary_feed hbound [b]).2.buf_of_first_highByte hphase hcount, hhi]

/-- Settles O28: the transition, the example, and the run of marker bytes from reset. -/
theorem whMarkResult : Obligations.WhMarkResult := by
  refine ⟨fun s w b ha hres hb hp hff => ?_, ⟨_, rfl, rfl, rfl, rfl⟩, fun k hk => ?_⟩
  · rw [exec_of_marker ha hres hb (by rw [hp]; rfl) hff, stepByte_of_markerForHighByte ha (.inl hp) hff]
  · obtain ⟨t, ht, ⟨-, hinv⟩, ⟨hodd, hp⟩ | ⟨heven, hp⟩⟩ := feedChunks_markers (reset_atBoundary _) rfl hk
    · exact ⟨t, ht, fun _ => ⟨hp, hinv.buf_of_AM2 hp⟩, fun h => by omega⟩
    · exact ⟨t, ht, fun h => by omega, fun _ => ⟨hp, hinv.buf_of_WH hp⟩⟩

end Sys2Proof.Machine

namespace Sys2Proof.Machine

/-! ## The host takes a result -/

theorem Result.frames_eq_ite (res : Result) : res.frames = if res.status = .frame then [res.frame] else [] := by
  unfold Result.frames
  cases res.status <;> rfl

/-- The host reads every result from its bits, and the consumer receives the frames it delivers (R79, R182). -/
theorem HostLoop.takeResult_eq (h : HostLoop) :
    h.takeResult = .next ⟨h.session, h.delivered ++ h.session.result.frames⟩ := by
  unfold HostLoop.takeResult
  rw [Result.ofBits_toBits]
  rcases h.session.result with ⟨st, f, room⟩
  cases st <;> simp [Result.frames]

/-- The host after a `FEED` that completed: the session it leaves, and the frames of its result delivered. -/
def HostLoop.fed (h : HostLoop) (data : List Byte) : HostLoop :=
  ⟨feed Config.resyncOnLow data h.session, h.delivered ++ (feed Config.resyncOnLow data h.session).result.frames⟩

/-- A `FEED` of the host completes in an idle session. -/
theorem HostLoop.issueFeed_of_idle {h : HostLoop} (hidle : h.session.act = .idle) (data : List Byte) :
    h.issueFeed data = .next (h.fed data) := by
  unfold HostLoop.issueFeed
  rw [exec_feed_of_idle hidle]
  exact HostLoop.takeResult_eq _

/-! ## A host that splits by the room -/

theorem atBoundary_feedChunks {r : Bool} {t : State} : ∀ (chunks : List (List Byte)) {s : State} {fs : List Frame},
    s.AtBoundary r → feedChunks r chunks s = some (fs, t) → t.AtBoundary r
  | [], s, fs, hs, h => by
    cases h
    exact hs
  | c :: cs, s, fs, hs, h => by
    obtain ⟨-, -, gs, hrest, -⟩ := feedChunks_cons_eq_some_iff.mp h
    exact atBoundary_feedChunks cs (atBoundary_feed hs c) hrest

/-- After accepted chunks the last result is no `CAPACITY_EXCEEDED`, if there was a chunk or it was none before. -/
theorem feedChunks_status {r : Bool} {t : State} : ∀ (chunks : List (List Byte)) {s : State} {fs : List Frame},
    feedChunks r chunks s = some (fs, t) → chunks ≠ [] ∨ s.result.status ≠ .capacityExceeded →
    t.result.status ≠ .capacityExceeded
  | [], s, fs, h, hst => by
    cases h
    exact hst.resolve_left (· rfl)
  | c :: cs, s, fs, h, _ => by
    obtain ⟨-, hst, gs, hrest, -⟩ := feedChunks_cons_eq_some_iff.mp h
    exact feedChunks_status cs hrest (.inr hst)

/-- The room of the last result is at least 1 and fits (R77, R205): the bytes a splitting host issues are accepted, and
fewer bytes are left. -/
theorem split_at_room {r : Bool} {s : State} (hs : s.AtBoundary r) (b : Byte) (data : List Byte) :
    s.buf.length + ((b :: data).take s.result.room.toNat).length ≤ 18 ∧
      ((b :: data).drop s.result.room.toNat).length ≤ data.length := by
  have hlen := hs.2.buf_length_le
  have hroom : s.result.room.toNat = 18 - s.buf.length := by
    obtain ⟨-, -, -, -, -, hroom⟩ := hs
    exact hroom
  rw [hroom, List.length_take, List.length_drop, List.length_cons]
  omega

/-- One round of the splitting host: the `FEED` of what the room admits, its frame delivered, and then the rest. -/
theorem issueWithinRoom_cons {h : HostLoop} (hidle : h.session.act = .idle) (fuel : Nat) (b : Byte)
    (data : List Byte) :
    issueWithinRoom (fuel + 1) (b :: data) h =
      issueWithinRoom fuel ((b :: data).drop h.session.result.room.toNat)
        (h.fed ((b :: data).take h.session.result.room.toNat)) := by
  simp only [issueWithinRoom, HostLoop.issueFeed_of_idle hidle]

/-- The splitting host cuts what it has read into chunks that are all accepted, and delivers their frames. -/
theorem issueWithinRoom_eq_feedChunks : ∀ (fuel : Nat) (data : List Byte) {h : HostLoop},
    h.session.AtBoundary Config.resyncOnLow → data.length ≤ fuel →
    ∃ chunks fs t, chunks.flatten = data ∧ feedChunks Config.resyncOnLow chunks h.session = some (fs, t) ∧
      issueWithinRoom fuel data h = .next ⟨t, h.delivered ++ fs⟩
  | fuel, [], h, _, _ => by
    refine ⟨[], [], h.session, rfl, rfl, ?_⟩
    rw [List.append_nil]
    cases fuel <;> rfl
  | fuel + 1, b :: data, h, hs, hfuel => by
    have hsplit := List.take_append_drop h.session.result.room.toNat (b :: data)
    have hissue := issueWithinRoom_cons hs.1 fuel b data
    obtain ⟨hfit, hrest⟩ := split_at_room hs b data
    generalize (b :: data).take h.session.result.room.toNat = first at hsplit hissue hfit
    generalize (b :: data).drop h.session.result.room.toNat = rest at hsplit hissue hrest
    obtain ⟨chunks, fs, t, hflat, hchunks, hnext⟩ := issueWithinRoom_eq_feedChunks fuel rest
      (h := h.fed first) (atBoundary_feed hs first) (hrest.trans (Nat.le_of_succ_le_succ hfuel))
    refine ⟨first :: chunks, _, t, by rw [List.flatten_cons, hflat, hsplit], feedChunks_cons_eq_some_iff.mpr
      ⟨hs.1, (feed_accepted_iff _ first _).mpr hfit, fs, hchunks, rfl⟩, ?_⟩
    rw [hissue, hnext, HostLoop.fed, List.append_assoc]

/-- Settles O59: the host's chunks are all accepted, and chunks do what their bytes fed one at a time do. -/
theorem splittingHostNeverOverfills : Obligations.SplittingHostNeverOverfills := by
  intro h data hs
  obtain ⟨chunks, fs, t, rfl, hchunks, hissue⟩ := issueWithinRoom_eq_feedChunks data.length data hs le_rfl
  obtain ⟨res, hsingle⟩ := feedChunks_singleBytes_flatten chunks hs hchunks
  refine ⟨t, _, fs, hissue, atBoundary_feedChunks chunks hs hchunks, fun hne => ?_, hsingle, rfl⟩
  exact feedChunks_status chunks hchunks (.inl fun hnil => hne (by rw [hnil, List.flatten_nil]))

/-! ## The one error of the block -/

/-- Settles O4: `FEED` alone raises the error, when its data does not fit; `INIT` answers `NO_FRAME`, and a transition
is `STEP`, which leaves the result alone. -/
theorem capacityExceededCause : Obligations.CapacityExceededCause := by
  refine ⟨fun s t data ht => ?_, fun s t ht => ?_, fun i s t hi ht => ?_⟩
  · obtain ⟨-, rfl⟩ := (feedWith_eq_next_iff _ data s t).mp ht
    have hcause : (feed Config.resyncOnLow data s).result.status = .capacityExceeded ↔
        s.buf.length + data.length > 18 := by
      rw [← not_iff_not, ← ne_eq, feed_accepted_iff, not_lt]
    refine ⟨hcause, fun hst => ?_⟩
    have hfeed : feed Config.resyncOnLow data s = s.returnCapacityExceeded := if_pos (hcause.mp hst)
    rw [hfeed]
    exact ⟨rfl, rfl, room_toNat⟩
  · rw [execInit_eq_next ht]
    rfl
  · obtain ⟨p, m, hsel⟩ := exists_selector_of_transition hi
    rw [exec_of_decodeSelector hsel] at ht
    obtain ⟨w, b, ha, -, -, -, rfl⟩ := (runTransition_eq_next_iff _ _ _ _ _).mp ht
    obtain ⟨-, -, hresult, -⟩ := stepByte_frame Config.resyncOnLow ha b
    exact hresult

/-! ## The last result is not read -/

/-- No `FEED` reads the last result, whether its data fits or not. -/
theorem feed_setResult_of_any_length (r : Bool) (data : List Byte) (s : State) (res : Result) :
    feed r data (s.setResult res) = feed r data s := by
  by_cases hfit : s.buf.length + data.length ≤ 18
  · exact feed_setResult hfit res
  · have hover : s.buf.length + data.length > Config.cap := not_le.mp hfit
    calc feed r data (s.setResult res)
        = (s.setResult res).returnCapacityExceeded := if_pos hover
      _ = s.returnCapacityExceeded := rfl
      _ = feed r data s := (if_pos hover).symm

theorem exec_init_setResult (s : State) (res : Result) : exec .init (s.setResult res) = exec .init s := rfl

theorem exec_feed_setResult (s : State) (res : Result) (data : List Byte) :
    exec (.feed data) (s.setResult res) = exec (.feed data) s := by
  show feedWith _ data (s.setResult res) = feedWith _ data s
  simp only [feedWith, State.setResult_act, feed_setResult_of_any_length]

/-- Settles O15: neither `INIT` nor `FEED` reads the result it overwrites. -/
theorem resultIsNeverReadBack : Obligations.ResultIsNeverReadBack :=
  fun s res => ⟨exec_init_setResult s res, exec_feed_setResult s res⟩

/-- Settles O14: the error writes the result alone, which no operation reads, and its room is the next `FEED`'s. -/
theorem capacityErrorDoesNotLatch : Obligations.CapacityErrorDoesNotLatch := by
  intro s t data hs ht hst
  obtain ⟨hcause, -, -⟩ := capacityExceededCause
  obtain ⟨-, herror⟩ := hcause s t data ht
  obtain ⟨hkept, -, -⟩ := herror hst
  have hbound : t.AtBoundary Config.resyncOnLow := everyFeedKeepsTheBoundary _ s t data hs ht
  obtain ⟨-, hroom⟩ := roomIsWhatTheNextFeedMayCarry t hbound
  refine ⟨hkept, hkept ▸ exec_init_setResult s t.result,
    fun data' => hkept ▸ exec_feed_setResult s t.result data', fun data' hfit => ?_⟩
  obtain ⟨u, hu, hexceeds⟩ := hroom data'
  exact ⟨u, hu, fun hst' => absurd (hexceeds.mp hst') (not_lt.mpr hfit)⟩

/-! ## The host loop -/

/-- Settles O58: the turn's `FEED` completes, and the host takes its result. -/
theorem hostDeliversEachFrameOnce : Obligations.HostDeliversEachFrameOnce := by
  intro h data hidle
  refine ⟨_, exec_feed_of_idle hidle data, ?_⟩
  rw [← Result.frames_eq_ite]
  exact HostLoop.issueFeed_of_idle hidle data

/-- Settles O57: a failure reaches no operation; no data is an empty `FEED`, which changes the result alone. -/
theorem byteSourceAnswers : Obligations.ByteSourceAnswers := by
  refine ⟨fun _ _ => rfl, fun _ => rfl, fun h hs => ?_⟩
  have hturn : hostTurn .noData h = .next (h.fed []) := HostLoop.issueFeed_of_idle hs.1 []
  rw [hturn, HostLoop.fed, feed_nil hs]
  exact congrArg (HostOutcome.next ⟨h.session.returnNoFrame, ·⟩) (List.append_nil _)

/-! ## No request -/

theorem stepRequest_nil {s : State} (h : s.requests = []) : stepRequest s = .next s := by
  simp only [stepRequest, State.takeRequest, h]

/-- Settles O39: outside a scan a step is the host's next request, and there is none. -/
theorem stepWithoutRequestKeepsState : Obligations.StepWithoutRequestKeepsState := by
  intro s hs hreq
  rw [step_not_scanning hs, stepRequest_nil hreq]

/-! ## Sessions side by side -/

/-- An operation on session `k` of a list completes when that session is there and completes it; the list then holds
the session's new state in its place. -/
theorem sessionsExec_eq_next_iff (k : Nat) (i : Instr) (ss ss' : List State) :
    sessionsExec k i ss = .next ss' ↔ ∃ s t, ss[k]? = some s ∧ exec i s = .next t ∧ ss' = ss.set k t := by
  unfold sessionsExec
  cases hk : ss[k]? with
  | none => simp
  | some s => cases he : exec i s <;> simp [he, eq_comm]

/-- Settles O60: the list is the old one with session `k`'s new state in its place. -/
theorem sessionsAreIndependent : Obligations.SessionsAreIndependent := by
  intro ss ss' k i h
  obtain ⟨s, t, hk, he, rfl⟩ := (sessionsExec_eq_next_iff k i ss ss').mp h
  obtain ⟨hlt, -⟩ := List.getElem?_eq_some_iff.mp hk
  exact ⟨List.length_set, fun j hj => List.getElem?_set_ne hj.symm, s, t, hk, List.getElem?_set_self hlt, he⟩

end Sys2Proof.Machine

namespace Sys2Proof.Machine

/-! ## Operations without a meaning -/

theorem execInit_of_scanning {s : State} {w : Scan} (ha : s.act = .scanning w) :
    execInit s = .refused .overlappingOperation := by
  simp only [execInit, ha]

theorem feedWith_of_scanning {s : State} {w : Scan} (ha : s.act = .scanning w) (r : Bool) (data : List Byte) :
    feedWith r data s = .refused .overlappingOperation := by
  simp only [feedWith, ha]

theorem feedWith_of_uninitialised {s : State} (ha : s.act = .uninitialised) (r : Bool) (data : List Byte) :
    feedWith r data s = .refused .uninitialised := by
  simp only [feedWith, ha]

/-- Settles O16: `INIT` and `FEED` look at what the session is doing before anything else. -/
theorem operationsWithoutMeaningAreRefused : Obligations.OperationsWithoutMeaningAreRefused :=
  ⟨fun _ data ha => feedWith_of_uninitialised ha _ data,
    fun _ _ ha => ⟨execInit_of_scanning ha, feedWith_of_scanning ha _⟩⟩

end Sys2Proof.Machine
